-- ==== Sys2Proof/Word.lean ====
section
/-! DEFINITION. The data words of the TDCU and nothing else: the widths of 10_state.md rule R13, with the parameter `W`
at its decided value 32 (00_scope.md rule R5, 92_eei_decisions.md D3).
-/

namespace Sys2Proof

/-- One byte on the bus: `b0`, `b1`, a register selector (R13, R46). -/
abbrev Byte := BitVec 8

/-- A 16-bit word: the raw sample `w`, the shifted value `sh`, the count `c16` (R13). -/
abbrev Word16 := BitVec 16

/-- The 12-bit measurement field `f` (R13). -/
abbrev Field12 := BitVec 12

/-- A `W`-bit value with `W = 32`: the count `c`, the temperature `T`, the whole degrees `whole` (R5, R13, D3).
DESIGN CHOICE (safe), notes/assumptions/11.md. -/
abbrev Wide := BitVec 32

/-- The display remainder `rem`, 10 bits unsigned (R13, R45). -/
abbrev Rem10 := BitVec 10

/-- A 7-bit device address of the two-wire bus (R24). -/
abbrev BusAddress := BitVec 7

end Sys2Proof
end

