-- ==== Sys2Proof/Config.lean ====
section
/-! DEFINITION. What is fixed for the machine: the constants of 00_scope.md rule R5, the vocabulary in which the bus session
(an environment agent, R7) answers a transaction, and the one free value: an answer that nothing constrains.
-/

namespace Sys2Proof

/-- The `ErrCode` of `BusError`: "an implementation-defined code" whose width, values and meaning no source gives
(60_exceptions.md R91, D12). The number only tells two codes apart; no definition of the model looks at it.
DESIGN CHOICE (safe), notes/assumptions/5.md. -/
structure ErrCode where
  tag : Nat
  deriving DecidableEq, Repr, Inhabited

/-- The opaque identifier of a bus controller instance, passed explicitly into every bus operation (10_state.md R15).
DESIGN CHOICE (safe), notes/assumptions/6.md. -/
structure HandleId where
  tag : Nat
  deriving DecidableEq, Repr, Inhabited

/-- The causes 40_bus_transact.md R59 lists for a failing transaction. The unit never learns which one it was.
DESIGN CHOICE (safe), notes/assumptions/19.md. -/
inductive BusFailure where
  | noAcknowledgment
  | arbitrationLoss
  | busBusyOrTimeout
  | controllerFault
  deriving DecidableEq, Repr, Inhabited

/-- How far the frame of 30_encoding.md R46 had got when a transaction failed: the last event that was on the bus, with
the data bytes already received (R58: they are not returned). -/
inductive FrameProgress where
  | nothing
  | start
  | addressWrite
  | register
  | restart
  | addressRead
  | data0 (b0 : Byte)
  | data1 (b0 b1 : Byte)
  deriving DecidableEq, Repr, Inhabited

/-- What the bus session answers to one transaction (R56): two bytes, first received first, or a failure with its code
(R59). A failure's cause and progress are facts of the bus that no operation of the unit can see. -/
inductive BusAnswer where
  | ok (b0 b1 : Byte)
  | fail (code : ErrCode) (cause : BusFailure) (progress : FrameProgress)
  deriving DecidableEq, Repr, Inhabited

/-- The role a bus controller can be configured for; only the controller (host) role is used (R93, R107). -/
inductive BusRole where
  | controller
  | other
  deriving DecidableEq, Repr

namespace Config

/-- `DEV_ADDR`: the sensor's 7-bit bus address (R5, R32). -/
abbrev devAddr : BusAddress := 0x48#7

/-- `REG_TEMP`: the selector byte of the temperature result register, "only address used" (R5, R16, R32). -/
abbrev regTemp : Byte := 0x00#8

/-- `READ_LEN`: the read length, "fixed at 2 for this sensor" (R5, R28). `WRITE_LEN` is the length of `[regTemp]`. -/
abbrev readLen : Nat := 2

/-- `SCALE_NUM` (R5). -/
abbrev scaleNum : Int := 625

/-- `SCALE_DEN` (R5). -/
abbrev scaleDen : Int := 10

/-- `DISPLAY_DIV` (R5). -/
abbrev displayDiv : Int := 1000

/-- `BUS_SPEED`: "a standard low-speed mode (100 kHz)" (R5, R107). -/
abbrev busSpeedHz : Nat := 100000

/-- FREE VALUE. The answer to the `n`-th transaction since reset wherever `State.answers` lists none: a draw over every
answer, under no law (R9, R22, R39, R56, D11, D12). DESIGN CHOICE (safe): it has no body, so no proof can lean on one of its values.
notes/assumptions/3.md. -/
opaque freeAnswer : Nat → BusAnswer

end Config

end Sys2Proof
end

