-- ==== Sys2Proof/Syntax.lean ====
section
/-! DEFINITION. The eight operations of 30_encoding.md rule R47, one constructor for each row of spec/opcode_table.json, with
the operands each row's rule gives it; and the entry points by which a caller selects one (no opcode selects it, R47, R50).
-/

namespace Sys2Proof

/-- An invocation of one operation with its operands, as the notation of R55 writes it (without the environment's answer). -/
inductive Instr where
  /-- `TRANSACT handle, targetAddress, writeBytes, readLength` (40_bus_transact.md R56). -/
  | transact (h : HandleId) (address : BusAddress) (writeBytes : List Byte) (readLength : Nat)
  /-- `COMPOSE b0, b1` (41_field_decode.md R63). -/
  | compose (b0 b1 : Byte)
  /-- `EXTRACT w` (41_field_decode.md R64). -/
  | extract (w : Word16)
  /-- `SIGNEXT sh` (41_field_decode.md R65). -/
  | signext (sh : Word16)
  /-- `SCALE c` (42_scale_decode.md R70). -/
  | scale (c : Wide)
  /-- `DECODE w` (42_scale_decode.md R71). -/
  | decode (w : Word16)
  /-- `READ handle` (43_read.md R80). -/
  | read (h : HandleId)
  /-- `SPLIT T` (44_display_split.md R86). -/
  | split (T : Wide)
  deriving DecidableEq, Repr

/-- The entry point a caller invokes: "each is a separate entry point" (R18, R47). A bus entry point takes the handle
beside its data operand (R15); the handle has no bits in any encoding. -/
inductive Entry where
  | transact (h : HandleId)
  | compose
  | extract
  | signext
  | scale
  | decode
  | read (h : HandleId)
  | split
  deriving DecidableEq, Repr

/-- The entry point of an operation. -/
def Instr.entry : Instr → Entry
  | .transact h _ _ _ => .transact h
  | .compose _ _ => .compose
  | .extract _ => .extract
  | .signext _ => .signext
  | .scale _ => .scale
  | .decode _ => .decode
  | .read h => .read h
  | .split _ => .split

/-- The operations that use the bus; every other one is a function of its operands alone (R8, R24). -/
def Instr.usesBus : Instr → Bool
  | .transact _ _ _ _ | .read _ => true
  | .compose _ _ | .extract _ | .signext _ | .scale _ | .decode _ | .split _ => false

end Sys2Proof
end

