-- ==== Sys2Proof/WellFormed.lean ====
section
/-! DEFINITION. Which operands an operation admits. Only `TRANSACT` has any that it does not: 40_bus_transact.md rule R57
admits exactly the argument list `(handle, 0x48, [0x00], 2)`. Every value of every other operand is legal (30_encoding.md R51).
-/

namespace Sys2Proof

/-- The operation's operands are ones the hardware gives it (R57, R51). -/
def Instr.wellFormed : Instr → Bool
  | .transact _ address writeBytes readLength =>
    address == Config.devAddr && writeBytes == [Config.regTemp] && readLength == Config.readLen
  | .compose _ _ | .extract _ | .signext _ | .scale _ | .decode _ | .read _ | .split _ => true

end Sys2Proof
end

