-- ==== Sys2Proof/Decode.lean ====
section
/-! DEFINITION. Decoding and encoding. The TDCU has no instruction words (30_encoding.md rule R40): what it decodes is the data
operand of the entry point the caller invokes (R50). So the decoder takes the entry point and the operand's bytes, most
significant (first on the bus) first, and the encoder is written from the same patterns of spec/opcode_table.json.
-/

namespace Sys2Proof

/-- Why bytes are no operand of an entry point. -/
inductive Reject where
  /-- The number of bytes is not the row's width (R50). -/
  | wrongLength (got want : Nat)
  /-- Bit 31 of a frame is set: its pattern has 31 bits, the address only 7 (R50). -/
  | addressTooWide
  /-- The frame's address is not 0x48 (R50, R57). -/
  | wrongAddress (a : BusAddress)
  /-- The frame's register byte is not 0x00 (R50, R57). -/
  | wrongRegister (r : Byte)
  deriving DecidableEq, Repr

/-- What the decoder answers: the invocation, with the two answer bytes a frame carries (R50), or a rejection by name. -/
inductive Decoded where
  | invocation (i : Instr) (answer : Option (Byte × Byte))
  | rejected (r : Reject)
  deriving DecidableEq, Repr

/-- A 16-bit operand of two bytes, first byte high (R25, R41). -/
def word16Of (b0 b1 : Byte) : Word16 := b0 ++ b1

/-- A 32-bit operand of four bytes, first byte high (R25). -/
def wideOf (b0 b1 b2 b3 : Byte) : Wide := b0 ++ b1 ++ b2 ++ b3

/-- An operand of exactly two bytes. -/
def decode2 (k : Byte → Byte → Instr) : List Byte → Decoded
  | [b0, b1] => .invocation (k b0 b1) none
  | bs => .rejected (.wrongLength bs.length 2)

/-- An operand of exactly four bytes. -/
def decode4 (k : Wide → Instr) : List Byte → Decoded
  | [b0, b1, b2, b3] => .invocation (k (wideOf b0 b1 b2 b3)) none
  | bs => .rejected (.wrongLength bs.length 4)

/-- The 31 bits of a frame, `100100000000000AAAAAAAABBBBBBBB`: 7-bit address, register byte, then the answer's two
bytes (R46, R50; rows TRANSACT and READ). Bit 31 lies outside the pattern; a set one is rejected. DESIGN CHOICE (safe),
notes/assumptions/24.md. -/
def decodeFrame (i : Instr) : List Byte → Decoded
  | [a, r, b0, b1] =>
    if a.msb then .rejected .addressTooWide
    else if a.setWidth 7 ≠ Config.devAddr then .rejected (.wrongAddress (a.setWidth 7))
    else if r ≠ Config.regTemp then .rejected (.wrongRegister r)
    else .invocation i (some (b0, b1))
  | bs => .rejected (.wrongLength bs.length 4)

/-- The decoder: total on every entry point and every list of bytes. -/
def decode : Entry → List Byte → Decoded
  | .transact h => decodeFrame (.transact h Config.devAddr [Config.regTemp] Config.readLen)
  | .compose => decode2 .compose
  | .extract => decode2 fun b0 b1 => .extract (word16Of b0 b1)
  | .signext => decode2 fun b0 b1 => .signext (word16Of b0 b1)
  | .scale => decode4 .scale
  | .decode => decode2 fun b0 b1 => .decode (word16Of b0 b1)
  | .read h => decodeFrame (.read h)
  | .split => decode4 .split

/-- The two bytes of a 16-bit operand, first byte high. -/
def bytesOf16 (w : Word16) : List Byte := [w.extractLsb' 8 8, w.extractLsb' 0 8]

/-- The four bytes of a 32-bit operand, first byte high. -/
def bytesOf32 (v : Wide) : List Byte :=
  [v.extractLsb' 24 8, v.extractLsb' 16 8, v.extractLsb' 8 8, v.extractLsb' 0 8]

/-- The bytes of a frame: a zero bit and the 7-bit address, the register byte, the answer's bytes (R50). -/
def frameBytes (a : BusAddress) (r : Byte) (answer : Byte × Byte) : List Byte :=
  [a.setWidth 8, r, answer.1, answer.2]

/-- The encoder: the operand bytes of an operation. A frame also carries the answer's two bytes (R50), which are no
operand of the operation, so they are given beside it; every other row ignores them. -/
def encode (i : Instr) (answer : Byte × Byte) : List Byte :=
  match i with
  | .transact _ a wb _ => frameBytes a (wb.headD 0) answer
  | .compose b0 b1 => [b0, b1]
  | .extract w => bytesOf16 w
  | .signext sh => bytesOf16 sh
  | .scale c => bytesOf32 c
  | .decode w => bytesOf16 w
  | .read _ => frameBytes Config.devAddr Config.regTemp answer
  | .split T => bytesOf32 T

/-- The answer bytes a frame of this operation carries: `none` for an operation without a frame. -/
def Instr.carried (i : Instr) (answer : Byte × Byte) : Option (Byte × Byte) :=
  if i.usesBus then some answer else none

/-! ### Words numbered as the opcode table numbers them -/

/-- The number `w` as `n` bytes, most significant first: a row's bits are one word, stored big-endian (R25, R50). -/
def tableBytes (n w : Nat) : List Byte :=
  (List.range n).map fun k => BitVec.ofNat 8 (w >>> (8 * (n - 1 - k)))

/-- DESIGN CHOICE (notes/assumptions/2.md): the table's words hold no opcode (R47, R50), so a bare word does not say
which entry point is meant. Of the rows a word fits, the entry is the one the document itself names or its caller
invokes: a frame is a `READ`, any other 32-bit word a `SPLIT`, a 16-bit word a `DECODE`. -/
def tableEntry (nbytes w : Nat) : Option Entry :=
  if nbytes = 2 then some .decode
  else if nbytes = 4 then
    if (w >>> 16) % 65536 = 0x4800 then some (.read ⟨0⟩) else some .split
  else none

/-- The decoder's answer on a table word, with the frame's answer bytes. The width is rounded up to whole bytes, so 9 to 16 bits are
read as two bytes and 25 to 32 as four (a row of 31 bits, R50, lies in four). DESIGN CHOICE (unsafe), notes/assumptions/2.md. -/
def decodeTable (nbits w : Nat) : Option Decoded :=
  let n := (nbits + 7) / 8
  (tableEntry n w).map fun e => decode e (tableBytes n w)

/-- The instruction the decoder reads from a word of the opcode table (`none` where it rejects). -/
def decodeTableWord (nbits w : Nat) : Option Instr :=
  match decodeTable nbits w with
  | some (.invocation i _) => some i
  | some (.rejected _) | none => none

end Sys2Proof
end

