-- ==== Sys2Proof/Machine/State.lean ====
section
/-! DEFINITION. The machine's state as plain data, its faults and refusals, and the state after reset. The unit itself holds
nothing between operations (10_state.md rules R10 to R14): every field belongs to an agent around it (the application, the
bus session, the sensor, the caller, 00_scope.md R7), or records what the last invocation handed out at the ports.
-/

namespace Sys2Proof.Machine

/-- "A closed set of named error variants" with exactly three members, of which only `BusError` carries a payload
(60_exceptions.md R103). -/
inductive TdcuError where
  | deviceNotReady
  | configurationError
  | busError (code : ErrCode)
  deriving DecidableEq, Repr

/-- The value an operation returns in the `Ok` arm of its outcome, in the widths of 10_state.md R13. -/
inductive Value where
  /-- `TRANSACT`: exactly two bytes, first received first (R58). -/
  | bytes (b0 b1 : Byte)
  /-- `COMPOSE` (R63). -/
  | word (w : Word16)
  /-- `EXTRACT`: `sh` and its low 12 bits `f` (R64). -/
  | field (sh : Word16) (f : Field12)
  /-- `SIGNEXT`: the count in its 16-bit and its `W`-bit form (R65). -/
  | count (c16 : Word16) (c : Wide)
  /-- `SCALE`, `DECODE`, `READ`: millidegrees Celsius (R70, R71, R80). -/
  | temperature (T : Wide)
  /-- `SPLIT`: whole degrees and the absolute remainder (R86). -/
  | display (whole : Wide) (rem : Rem10)
  deriving DecidableEq, Repr

/-- The tagged outcome of an operation: "either `Ok(value)` or `Err(error)`" and never both (R12, R97). -/
inductive Result where
  | ok (v : Value)
  | err (e : TdcuError)
  deriving DecidableEq, Repr

/-- The unit's output ports (R18). -/
inductive Port where
  | ok
  | err
  | errCode
  | tempMdeg
  | whole
  | rem
  deriving DecidableEq, Repr

/-- What an output port shows, in the port's own width (R18). -/
inductive PortValue where
  | bit (b : Bool)
  | code (k : ErrCode)
  | wide (v : Wide)
  | tenBits (v : Rem10)
  deriving DecidableEq, Repr

/-- The direction sent with a bus address; kept apart from the address (R46, D27). -/
inductive Direction where
  | write
  | read
  deriving DecidableEq, Repr

/-- One event of the frame of 30_encoding.md R46. `acked` is the controller's acknowledgement of a data byte. -/
inductive WireEvent where
  | start
  | address (a : BusAddress) (d : Direction)
  | register (r : Byte)
  | restart
  | data (b : Byte) (acked : Bool)
  | stop
  deriving DecidableEq, Repr

/-- How far the application's start-up sequence has come (70_reset_and_hazards.md R107, R108). -/
inductive StartUp where
  | cold
  | checked
  | up
  | failed (e : TdcuError)
  deriving DecidableEq, Repr

/-- The borrowed bus handle: an opaque identifier with one Boolean property that only the environment sets (R15). -/
structure BusHandle where
  id : HandleId
  ready : Bool
  deriving DecidableEq, Repr

/-- The mode the sensor is in: the standard 12-bit one, or an extended-range one this hardware does not cover (R53). -/
inductive SensorMode where
  | standard12
  | extended
  deriving DecidableEq, Repr

/-- What an agent around the unit does next. A program is "a sequence of operation invocations chosen by the caller"
(R11, R115), preceded by the start-up services of the application (R107); the others are what the spec says a caller or
the sensor may do to it. `isReady` and `configure` carry no `deviceRef`, which R92 and R107 name and never define: both
speak of the one handle in State. DESIGN CHOICE (safe), notes/assumptions/25.md. -/
inductive Event where
  /-- The application calls `isReady`, which answers so (R92, R107). -/
  | isReady (answer : Bool)
  /-- The application calls `configure` with this role and speed, which accepts or rejects (R93, R107). -/
  | configure (role : BusRole) (speedHz : Nat) (accepted : Bool)
  /-- The caller invokes an operation (R11). -/
  | invoke (i : Instr)
  /-- The caller reads an output port (R18, R21). -/
  | readPort (p : Port)
  /-- The caller logs, sleeps, or does anything else that is no operation of the unit (95_test_vectors.md P1). -/
  | rest
  /-- A caller that breaks R35 has begun, or ended, a transaction of its own on the handle (R109). -/
  | otherBegins
  | otherEnds
  /-- The sensor is put in a mode (R53). -/
  | sensorIn (m : SensorMode)
  deriving DecidableEq, Repr, Inhabited

end Sys2Proof.Machine

/-- FREE VALUE. The `n`-th event of a caller that goes on for ever with events of its own choosing: nothing constrains it, and
it has no body (R11, R115). DESIGN CHOICE (safe), notes/assumptions/4.md. -/
opaque Sys2Proof.Config.freeEvent : Nat → Sys2Proof.Machine.Event

namespace Sys2Proof.Machine

/-- What follows when the listed script has run out: a program is "a finite or infinite sequence of operation invocations
chosen by the caller" (R11). DESIGN CHOICE (safe), notes/assumptions/4.md. -/
inductive AfterScript where
  /-- Nothing: the program is finite, and its run is then final (R115). -/
  | ends
  /-- These events, again and again: the "infinite polling loop" of R115. There is at least one. -/
  | loops (e : Event) (es : List Event)
  /-- Events for ever, each the caller's free choice; the next one is `Config.freeEvent n`. -/
  | drawn (n : Nat)
  deriving DecidableEq, Repr

/-- The machine's state. -/
structure State where
  /-- The application's start-up sequence (R107). -/
  startUp : StartUp
  /-- The application's bus handle, which the unit borrows and never changes (R15, R60). -/
  handle : BusHandle
  /-- A transaction that is not the next operation's own is in flight on the handle (R35, R109). -/
  inFlight : Bool
  /-- The sensor's mode, which the unit cannot detect (R53). -/
  sensorMode : SensorMode
  /-- The answers the bus session, with the sensor behind it, will give to the coming transactions, soonest first. Where
  it lists none the answer is `Config.freeAnswer` (R22, R39). MODEL'S OWN FIELD. -/
  answers : List BusAnswer
  /-- What each transaction has driven on the bus, oldest first: physical, and read by no operation (R31, R61). -/
  frames : List (List WireEvent)
  /-- What the last invocation handed out; `none` where the outputs have no value (R21). Read by no operation (R14). -/
  delivered : Option Result
  /-- What the agents around the unit do next, soonest first (R11, R115). -/
  script : List Event
  /-- What they do when `script` has run out (R11, R115). -/
  afterScript : AfterScript
  deriving DecidableEq, Repr

/-- Why a run stops in a fault of the model. -/
inductive Fault where
  /-- A caller reads an output port that has no value: before any operation has returned, or after one returned `Err`
  (R21, R100, D13). Raised by the event `readPort`. SAFE: the hardware would show some level there, the model none. -/
  | outputHasNoValue (p : Port)
  deriving DecidableEq, Repr

/-- What the model gives no meaning to. -/
inductive Refusal where
  /-- No meaning written yet; raised by no arm of this model. SAFE. -/
  | notModelled (mnemonic : String)
  /-- `TRANSACT` with an address other than 0x48 (R57, D29). SAFE. -/
  | transactAddress (a : BusAddress)
  /-- `TRANSACT` with write bytes other than `[0x00]` (R57, R27, D16, D29). SAFE. -/
  | transactWriteBytes (bs : List Byte)
  /-- `TRANSACT` with a read length other than 2 (R57, R27, D16, D29). SAFE. -/
  | transactReadLength (n : Nat)
  /-- A bus operation on a handle that is not ready: the launch premise is violated (R60, R84, R106). SAFE. -/
  | handleNotReady (h : HandleId)
  /-- A bus operation, or another transaction, while one is in flight on the handle (R109, D23). SAFE. -/
  | overlappingTransaction
  /-- A bus operation with the sensor in a mode this hardware does not cover (R53, R100, D26). SAFE. -/
  | sensorModeNotCovered
  /-- `SCALE` of a count whose product does not fit `W` bits (R70 corner case g, D3). SAFE. -/
  | scaleProductTooWide (c : Wide)
  /-- A start-up service called out of its order, or again (R107, D21). SAFE. -/
  | startUpOutOfOrder
  /-- `configure` with another role or speed than R107 gives. SAFE. -/
  | configureArguments
  /-- Anything after a fatal start-up error: the run has ended with that error (R108). Raised by `step`. SAFE. -/
  | runEnded (e : TdcuError)
  deriving DecidableEq, Repr

/-- The state after reset: "a model's initial state of the unit is the empty state" (R104); the handle is not ready (R23)
and the outputs have no value (R21). Fields the spec gives no reset value for: notes/assumptions/1.md. -/
def State.reset : State where
  startUp := .cold
  handle := ⟨⟨0⟩, false⟩
  inFlight := false
  sensorMode := .standard12
  answers := []
  frames := []
  delivered := none
  script := []
  afterScript := .ends

end Sys2Proof.Machine
end

