-- ==== Sys2Proof/Machine/Operands.lean ====
section
/-! DEFINITION. The datapath: how each operand is assembled from bits and what each pure operation computes from it
(30_encoding.md rules R48 and R49, 41_field_decode.md, 42_scale_decode.md, 44_display_split.md). Every function is total.
-/

namespace Sys2Proof.Machine

/-- `COMPOSE`: `w <- zext_16(b0) << 8 | zext_16(b1)` (R63, R48). -/
def composeWord (b0 b1 : Byte) : Word16 := (b0.setWidth 16 <<< 8) ||| b1.setWidth 16

/-- `EXTRACT`: `sh <- w >>u 4`, the logical shift (R64, 90_conflicts.md C1, D7).
DESIGN CHOICE (safe), notes/assumptions/17.md. -/
def shiftedOf (w : Word16) : Word16 := w >>> 4

/-- The field `f <- sh[11:0]` (R64, R65). -/
def fieldOf (sh : Word16) : Field12 := sh.extractLsb' 0 12

/-- `SIGNEXT`'s 16-bit form: OR in 0xF000 if bit 11 is set; bits 15:12 of the operand are not read (R65, D8, C13).
DESIGN CHOICE (safe), notes/assumptions/17.md. -/
def count16Of (sh : Word16) : Word16 :=
  let f := fieldOf sh
  if f.getLsbD 11 then f.setWidth 16 ||| 0xF000#16 else f.setWidth 16

/-- `SIGNEXT`: `c <- sext_W(c16)` (R65, 90_conflicts.md C2). -/
def countOf (sh : Word16) : Wide := (count16Of sh).signExtend 32

/-- The product `p <- c * 625`, exact (R70, R72). -/
def productOf (c : Wide) : Int := c.toInt * Config.scaleNum

/-- The product fits `W` bits two's complement (R70 corner case g). -/
def productFits (c : Wide) : Bool := -(2 ^ 31) ≤ productOf c && productOf c < 2 ^ 31

/-- `SCALE`: `T <- tdiv(p, 10)`, truncating toward zero (R70, R73, D9).
DESIGN CHOICE (unsafe), notes/assumptions/12.md. -/
def scaled (c : Wide) : Wide := BitVec.ofInt 32 ((productOf c).tdiv Config.scaleDen)

/-- `DECODE`: `SCALE(SIGNEXT(EXTRACT(w)))` (R71). -/
def decoded (w : Word16) : Wide := scaled (countOf (shiftedOf w))

/-- `SPLIT`: `whole <- tdiv(T, 1000)` (R86, D25). DESIGN CHOICE (unsafe), notes/assumptions/14.md. -/
def wholeOf (T : Wide) : Wide := BitVec.ofInt 32 (T.toInt.tdiv Config.displayDiv)

/-- `SPLIT`: `rem <- abs(trem(T, 1000))`, in 10 bits (R86, R45, D25). DESIGN CHOICE (unsafe), notes/assumptions/14.md. -/
def remOf (T : Wide) : Rem10 := BitVec.ofNat 10 (T.toInt.tmod Config.displayDiv).natAbs

end Sys2Proof.Machine
end

