-- ==== Sys2Proof/Machine/Flags.lean ====
section
/-! DEFINITION. The unit has no flags and no condition codes (10_state.md rule R12): "the only status an operation reports is
which arm of its tagged outcome it returns". So this file holds the status ports `ok`, `err`, `err_code` and the value ports
of the port table (R18), as views of that outcome: `none` where a port has no value (R21).
-/

namespace Sys2Proof.Machine

/-- Input port `bus_ok`: the transaction succeeded (R18). -/
def busOk : BusAnswer → Bool
  | .ok _ _ => true
  | .fail _ _ _ => false

/-- Input port `bus_err`: "exactly one of `bus_ok`, `bus_err` is 1 in an invocation" (R18). -/
def busErr (a : BusAnswer) : Bool := !busOk a

/-- Input port `bus_code`: meaningful only when the transaction failed (R18). -/
def busCode : BusAnswer → Option ErrCode
  | .ok _ _ => none
  | .fail k _ _ => some k

/-- The code an error carries: only `BusError` has one (R103). -/
def TdcuError.code : TdcuError → Option ErrCode
  | .busError k => some k
  | .deviceNotReady | .configurationError => none

/-- Output `ok` (R18): `bus_ok` of the invocation's transaction. A pure operation has none, and shows the arm of its outcome,
`ok` = 1. DESIGN CHOICE (unsafe), notes/assumptions/23.md. -/
def Result.isOk : Result → Bool
  | .ok _ => true
  | .err _ => false

/-- Output `temp_mdeg`: the temperature of an `Ok` outcome that has one (R18, R21). -/
def Result.temp : Result → Option Wide
  | .ok (.temperature T) => some T
  | .ok (.bytes _ _) | .ok (.word _) | .ok (.field _ _) | .ok (.count _ _) | .ok (.display _ _) | .err _ => none

/-- Outputs `whole` and `rem`: of a `SPLIT`, or of the temperature on `temp_mdeg`, whose split is combinational in the
same invocation (R18). DEDUCED (unsafe), notes/assumptions/8.md. -/
def Result.display : Result → Option (Wide × Rem10)
  | .ok (.display whole rem) => some (whole, rem)
  | .ok (.temperature T) => some (wholeOf T, remOf T)
  | .ok (.bytes _ _) | .ok (.word _) | .ok (.field _ _) | .ok (.count _ _) | .err _ => none

/-- What an outcome shows on an output port; `none` where the port has no value (R18, R21). After a pure operation `ok` is 1 and
`err` is 0: DESIGN CHOICE (unsafe), notes/assumptions/23.md. Which value ports show something after which operation, and
that `err_code` shows nothing after `Ok`: DEDUCED (unsafe), notes/assumptions/8.md. -/
def Result.port (r : Result) : Port → Option PortValue
  | .ok => some (.bit r.isOk)
  | .err => some (.bit !r.isOk)
  | .errCode =>
    match r with
    | .ok _ => none
    | .err e => e.code.map .code
  | .tempMdeg => r.temp.map .wide
  | .whole => r.display.map fun d => .wide d.1
  | .rem => r.display.map fun d => .tenBits d.2

/-- What a port shows now: nothing before the first operation returns (R21, D13). -/
def State.port (s : State) (p : Port) : Option PortValue := s.delivered.bind fun r => r.port p

end Sys2Proof.Machine
end

