-- ==== Sys2Proof/Machine/Ops.lean ====
section
/-! DEFINITION. The operations over the state that every meaning shares: handing out a result, delivering an error, and the one
bus transaction, which is also the only memory access (20_memory.md rule R24; 00_scope.md section 5, `MemRead`).
-/

namespace Sys2Proof.Machine

/-- An operation returns: its outcome is at the ports, and nothing else of it remains (R10, R13, R97). -/
def State.deliver (r : Result) (s : State) : State := { s with delivered := some r }

/-- The `Ok` arm (R12). -/
def State.returnOk (v : Value) (s : State) : State := s.deliver (.ok v)

/-- TAKING AN EXCEPTION: `raise`. An error is delivered as the `Err` arm of the outcome of the operation that detected it;
"nothing is saved, because there is nothing to save", and control goes nowhere special (60_exceptions.md R97). There is no
return from it, because there is no trap context to leave (R99). -/
def State.raise (e : TdcuError) (s : State) : State := s.deliver (.err e)

/-- The handle passed is the application's and it is ready (R15, R84, R106). -/
def State.handleReady (s : State) (h : HandleId) : Bool := h == s.handle.id && s.handle.ready

/-- What a bus operation on this handle is refused for, if anything: not ready (R106), overlapping (R109), another sensor
mode (R53). Their order and the mode: DESIGN CHOICE (safe), notes/assumptions/10.md and 22.md. -/
def State.busRefusal (s : State) (h : HandleId) : Option Refusal :=
  if !s.handleReady h then some (.handleNotReady h)
  else if s.inFlight then some .overlappingTransaction
  else if s.sensorMode = .extended then some .sensorModeNotCovered
  else none

/-- What an argument list is refused for, if anything: all but `(handle, 0x48, [0x00], 2)` (R57, R27). Of several
wrong arguments the refusal names the first: address, write bytes, read length. DESIGN CHOICE (safe), notes/assumptions/10.md. -/
def argumentRefusal (address : BusAddress) (writeBytes : List Byte) (readLength : Nat) : Option Refusal :=
  if address ≠ Config.devAddr then some (.transactAddress address)
  else if writeBytes ≠ [Config.regTemp] then some (.transactWriteBytes writeBytes)
  else if readLength ≠ Config.readLen then some (.transactReadLength readLength)
  else none

/-- The number of transactions driven since reset. -/
def State.issued (s : State) : Nat := s.frames.length

/-- The environment's answer to the next transaction: a draw, under no law (R9, R22, R39, R56). -/
def State.nextAnswer (s : State) : BusAnswer :=
  match s.answers with
  | a :: _ => a
  | [] => Config.freeAnswer s.issued

/-- The frame of a transaction that succeeds, in the order of 30_encoding.md R46. -/
def fullFrame (address : BusAddress) (register b0 b1 : Byte) : List WireEvent :=
  [.start, .address address .write, .register register, .restart, .address address .read,
    .data b0 true, .data b1 false, .stop]

/-- The events that were on the bus when a transaction broke off (R46, R58). -/
def brokenFrame (address : BusAddress) (register : Byte) : FrameProgress → List WireEvent
  | .nothing => []
  | .start => (fullFrame address register 0 0).take 1
  | .addressWrite => (fullFrame address register 0 0).take 2
  | .register => (fullFrame address register 0 0).take 3
  | .restart => (fullFrame address register 0 0).take 4
  | .addressRead => (fullFrame address register 0 0).take 5
  | .data0 b0 => (fullFrame address register b0 0).take 6
  | .data1 b0 b1 => (fullFrame address register b0 b1).take 7

/-- What a transaction drives on the bus. A frame that was begun ends in STOP by either arm, "the bus is released" (R83);
a transaction that never got the bus drives nothing. DEDUCED, notes/assumptions/9.md. -/
def frameOf (address : BusAddress) (register : Byte) : BusAnswer → List WireEvent
  | .ok b0 b1 => fullFrame address register b0 b1
  | .fail _ _ .nothing => []
  | .fail _ _ p => brokenFrame address register p ++ [.stop]

/-- The state after a transaction: its answer is used up and its frame has been driven; the handle, the unit and everything
a later operation can read are unchanged (R60). -/
def State.afterTransaction (address : BusAddress) (register : Byte) (s : State) : State :=
  { s with
    answers := s.answers.tail
    frames := s.frames ++ [frameOf address register s.nextAnswer] }

/-- THE BUS TRANSACTION (R56): refused for what R57, R106, R109 and R53 refuse; else the environment's answer, with the
state after it. It is one step, and always returns (R62, R114, D24).
DESIGN CHOICE (unsafe), notes/assumptions/7.md. -/
def busTransact (h : HandleId) (address : BusAddress) (writeBytes : List Byte) (readLength : Nat) (s : State) :
    Except Refusal (BusAnswer × State) :=
  match argumentRefusal address writeBytes readLength with
  | some r => .error r
  | none =>
    match s.busRefusal h with
    | some r => .error r
    | none => .ok (s.nextAnswer, s.afterTransaction address (writeBytes.headD 0))

/-- `MemRead(addr, n)`: `TRANSACT(handle, 0x48, [addr], n)`, the one memory-like access (00_scope.md section 5, R24).
There is no other memory: DEDUCED (safe), notes/assumptions/18.md. -/
def memRead (h : HandleId) (selector : Byte) (n : Nat) (s : State) : Except Refusal (BusAnswer × State) :=
  busTransact h Config.devAddr [selector] n s

/-- An answer delivered: the value made of its two bytes, or the error with the answer's own code, "unchanged to the
caller" (R58, R59, R81). -/
def State.returnAnswer (value : Byte → Byte → Value) (a : BusAnswer) (s : State) : State :=
  match a with
  | .ok b0 b1 => s.returnOk (value b0 b1)
  | .fail code _ _ => s.raise (.busError code)

/-- A bus operation: refused, or the next state with the answer delivered. -/
def finishBus (value : Byte → Byte → Value) :
    Except Refusal (BusAnswer × State) → Host.Outcome State Fault Refusal
  | .error r => .refused r
  | .ok (a, s) => .next (s.returnAnswer value a)

end Sys2Proof.Machine
end

