-- ==== Sys2Proof/Machine/BusTransact.lean ====
section
/-! DEFINITION. Operation family 1, 40_bus_transact.md: `TRANSACT`. -/

namespace Sys2Proof.Machine

/-- `TRANSACT handle, targetAddress, writeBytes, readLength -> Ok(readBytes) | Err(BusError(code))` (R56, R58, R59). -/
def execTransact (h : HandleId) (address : BusAddress) (writeBytes : List Byte) (readLength : Nat) (s : State) :
    Host.Outcome State Fault Refusal :=
  finishBus .bytes (busTransact h address writeBytes readLength s)

end Sys2Proof.Machine
end

