-- ==== Sys2Proof/Machine/DisplaySplit.lean ====
section
/-! DEFINITION. Operation family 5, 44_display_split.md: `SPLIT`. -/

namespace Sys2Proof.Machine

/-- `SPLIT T -> (whole, rem)` (R86, R87), total on every `W`-bit value. -/
def execSplit (T : Wide) (s : State) : Host.Outcome State Fault Refusal :=
  .next (s.returnOk (.display (wholeOf T) (remOf T)))

end Sys2Proof.Machine
end

