-- ==== Sys2Proof/Machine/FieldDecode.lean ====
section
/-! DEFINITION. Operation family 2, 41_field_decode.md: `COMPOSE`, `EXTRACT`, `SIGNEXT`. -/

namespace Sys2Proof.Machine

/-- `COMPOSE b0, b1 -> w` (R63). -/
def execCompose (b0 b1 : Byte) (s : State) : Host.Outcome State Fault Refusal :=
  .next (s.returnOk (.word (composeWord b0 b1)))

/-- `EXTRACT w -> sh`, with the field `f` (R64). -/
def execExtract (w : Word16) (s : State) : Host.Outcome State Fault Refusal :=
  .next (s.returnOk (.field (shiftedOf w) (fieldOf (shiftedOf w))))

/-- `SIGNEXT sh -> c`, in 16 bits and in `W` bits (R65). -/
def execSignext (sh : Word16) (s : State) : Host.Outcome State Fault Refusal :=
  .next (s.returnOk (.count (count16Of sh) (countOf sh)))

end Sys2Proof.Machine
end

