-- ==== Sys2Proof/Machine/Read.lean ====
section
/-! DEFINITION. Operation family 4, 43_read.md: `READ`. -/

namespace Sys2Proof.Machine

/-- `READ handle -> Ok(T) | Err(BusError(code))` (R80): one `MemRead(0x00, 2)`, then `COMPOSE` and `DECODE` of its bytes, or its
error passed on. -/
def execRead (h : HandleId) (s : State) : Host.Outcome State Fault Refusal :=
  finishBus (fun b0 b1 => .temperature (decoded (composeWord b0 b1))) (memRead h Config.regTemp Config.readLen s)

end Sys2Proof.Machine
end

