-- ==== Sys2Proof/Machine/ScaleDecode.lean ====
section
/-! DEFINITION. Operation family 3, 42_scale_decode.md: `SCALE`, `DECODE`. -/

namespace Sys2Proof.Machine

/-- `SCALE c -> T` (R70). A count whose product does not fit `W` bits "a model refuses ... rather than wrap" (corner case g). -/
def execScale (c : Wide) (s : State) : Host.Outcome State Fault Refusal :=
  if productFits c then .next (s.returnOk (.temperature (scaled c))) else .refused (.scaleProductTooWide c)

/-- `DECODE w -> T` (R71), total on all 65536 words. -/
def execDecode (w : Word16) (s : State) : Host.Outcome State Fault Refusal :=
  .next (s.returnOk (.temperature (decoded w)))

end Sys2Proof.Machine
end

