-- ==== Sys2Proof/Machine/Dispatch.lean ====
section
/-! DEFINITION. One arm per operation: each calls its own meaning. -/

namespace Sys2Proof.Machine

def exec (i : Instr) (s : State) : Host.Outcome State Fault Refusal :=
  match i with
  | .transact h address writeBytes readLength => Sys2Proof.Machine.execTransact h address writeBytes readLength s
  | .compose b0 b1 => Sys2Proof.Machine.execCompose b0 b1 s
  | .extract w => Sys2Proof.Machine.execExtract w s
  | .signext sh => Sys2Proof.Machine.execSignext sh s
  | .scale c => Sys2Proof.Machine.execScale c s
  | .decode w => Sys2Proof.Machine.execDecode w s
  | .read h => Sys2Proof.Machine.execRead h s
  | .split T => Sys2Proof.Machine.execSplit T s

end Sys2Proof.Machine
end

