-- ==== Sys2Proof/Machine/Events.lean ====
section
/-! DEFINITION. What each event of an agent around the unit does: the start-up services of the application
(70_reset_and_hazards.md rules R107, R108), the caller's reading of a port (10_state.md R21), and the ways the environment can
leave what the spec covers (R53, R109). The start-up services are environment rules, never operations of the unit (R3, C7).
-/

namespace Sys2Proof.Machine

/-- `isReady(deviceRef)`: first of the start-up sequence; `false` is the fatal `DeviceNotReady` (R92, R107, R108). -/
def onIsReady (answer : Bool) (s : State) : Host.Outcome State Fault Refusal :=
  match s.startUp with
  | .cold => .next { s with startUp := if answer then .checked else .failed .deviceNotReady }
  | .checked | .up | .failed _ => .refused .startUpOutOfOrder

/-- `configure(deviceRef, mode, speed)`: second, with the controller role and 100 kHz. Accepted, the handle is now ready;
rejected is the fatal `ConfigurationError` (R93, R107, R108, D28). The order of the two services:
DESIGN CHOICE (unsafe), notes/assumptions/13.md. A call that is both out of order and given another role or speed is named for its
arguments, configureArguments: DESIGN CHOICE (safe), notes/assumptions/26.md. -/
def onConfigure (role : BusRole) (speedHz : Nat) (accepted : Bool) (s : State) : Host.Outcome State Fault Refusal :=
  if role ≠ .controller ∨ speedHz ≠ Config.busSpeedHz then .refused .configureArguments
  else
    match s.startUp with
    | .checked =>
      if accepted then .next { s with startUp := .up, handle := { s.handle with ready := true } }
      else .next { s with startUp := .failed .configurationError }
    | .cold | .up | .failed _ => .refused .startUpOutOfOrder

/-- The caller reads an output port: a fault of the model where it has no value (R21, R100). -/
def onReadPort (p : Port) (s : State) : Host.Outcome State Fault Refusal :=
  match s.port p with
  | some _ => .next s
  | none => .fault (.outputHasNoValue p)

/-- The caller does something that is no operation: there is no invocation, so the outputs have no value (R13, R21;
95_test_vectors.md P1 step 3, "the unit holds nothing"). DESIGN CHOICE (safe), notes/assumptions/10.md. -/
def onRest (s : State) : Host.Outcome State Fault Refusal := .next { s with delivered := none }

/-- Another transaction begins on the handle; two at once are refused (R35, R109). Nothing but the overlap is tested: it may begin
on a handle that is not ready and with the sensor in any mode, since R106 and R53 speak of the unit's own operations.
DESIGN CHOICE (safe), notes/assumptions/10.md. -/
def onOtherBegins (s : State) : Host.Outcome State Fault Refusal :=
  if s.inFlight then .refused .overlappingTransaction else .next { s with inFlight := true }

/-- That other transaction ends. -/
def onOtherEnds (s : State) : Host.Outcome State Fault Refusal := .next { s with inFlight := false }

/-- The sensor is put in a mode; the unit cannot detect it (R53). -/
def onSensorIn (m : SensorMode) (s : State) : Host.Outcome State Fault Refusal := .next { s with sensorMode := m }

/-- One event. -/
def onEvent (e : Event) (s : State) : Host.Outcome State Fault Refusal :=
  match e with
  | .isReady answer => onIsReady answer s
  | .configure role speedHz accepted => onConfigure role speedHz accepted s
  | .invoke i => exec i s
  | .readPort p => onReadPort p s
  | .rest => onRest s
  | .otherBegins => onOtherBegins s
  | .otherEnds => onOtherEnds s
  | .sensorIn m => onSensorIn m s

/-- The next event, with the state it is taken off: the script's first, or what follows the script; `none` where the program has
ended (R11, R115). -/
def State.takeEvent (s : State) : Option (Event × State) :=
  match s.script, s.afterScript with
  | e :: rest, _ => some (e, { s with script := rest })
  | [], .ends => none
  | [], .loops e es => some (e, { s with script := es })
  | [], .drawn n => some (Config.freeEvent n, { s with afterScript := .drawn (n + 1) })

/-- Start-up has succeeded: the state the caller's loop begins in (R107 step 3). -/
def State.started (s : State) : State := { s with startUp := .up, handle := { s.handle with ready := true } }

/-- The caller invokes `i` next, and the bus session answers its transaction with these bytes, if it carries any (R55:
the answer stands after the invocation). -/
def State.place (i : Instr) (answer : Option (Byte × Byte)) (s : State) : State :=
  { s with
    script := .invoke i :: s.script
    answers := match answer with
      | some (b0, b1) => .ok b0 b1 :: s.answers
      | none => s.answers }

/-- A word of the opcode table placed as the next invocation, after a start-up that succeeded (notes/assumptions/4.md). A word
that is no operand of any entry point places nothing. -/
def State.placeTableWord (s : State) (nbits w : Nat) : State :=
  match decodeTable nbits w with
  | some (.invocation i answer) => s.started.place i answer
  | some (.rejected _) | none => s

end Sys2Proof.Machine
end

