-- ==== Sys2Proof/Machine/Step.lean ====
section
/-! DEFINITION. One step is one whole event of an agent, an operation of the unit among them (10_state.md rule R18, D1). There is no
program counter and no fetch (R11, R38): the script, and what follows it, says what the agents do next.
-/

namespace Sys2Proof.Machine

/-- One step. A run with nothing left to do is final and stays as it is (R115; DEDUCED, safe, notes/assumptions/16.md);
after a fatal start-up error the run has ended, and nothing more is given a meaning (R108; DEDUCED, safe, 15.md). There is
no time and no second agent (DESIGN CHOICE, safe, 20.md). -/
def step (s : State) : Host.Outcome State Fault Refusal :=
  match s.takeEvent with
  | none => .next s
  | some (e, taken) =>
    match s.startUp with
    | .failed err => .refused (.runEnded err)
    | .cold | .checked | .up => onEvent e taken

/-- `s` with the operation a table word stands for as its next event (notes/assumptions/4.md). -/
def State.withFetchWord (s : State) (nbits w : Nat) : State := s.placeTableWord nbits w

end Sys2Proof.Machine
end

