-- ==== Sys2Proof/Safety.lean ====
section
/-! DEFINITION. What a good run is, and the invariant of the machine. "A `BusError` is an ordinary outcome, not a fault of the
model: a run containing it is a good run" (60_exceptions.md R100).
-/

namespace Sys2Proof.Machine

/-- A value has the form its format gives it (30_encoding.md R43 to R45): `sh` in 0x0000..0x0FFF with `f` its low 12 bits, the two
forms of a count equal and in range, a temperature whose product fits 32 bits, a remainder of at most three digits. -/
def Value.inFormat : Value → Prop
  | .bytes _ _ | .word _ => True
  | .field sh f => sh.toNat ≤ 0x0FFF ∧ f.toNat = sh.toNat
  | .count c16 c => c16.toInt = c.toInt ∧ -2048 ≤ c.toInt ∧ c.toInt ≤ 2047
  | .temperature T => -214748312 ≤ T.toInt ∧ T.toInt ≤ 214748312
  | .display whole rem => -2147483 ≤ whole.toInt ∧ whole.toInt ≤ 2147483 ∧ rem.toNat ≤ 999

/-- The bus is released after a frame: it drove nothing, or it began with START and ended in STOP (R83). -/
def released (frame : List WireEvent) : Prop :=
  frame = [] ∨ frame.head? = some .start ∧ frame.getLast? = some .stop

/-- The invariant every step keeps. -/
structure Inv (s : State) : Prop where
  /-- The handle is ready exactly from the end of a successful start-up on (R23, R106, R107). -/
  readyIffUp : s.handle.ready = true ↔ s.startUp = .up
  /-- Between operations the bus is released: no frame is left open (R83). -/
  busReleased : ∀ f ∈ s.frames, released f
  /-- A value at the ports has its format (R43 to R45). -/
  valueInFormat : ∀ v, s.delivered = some (.ok v) → v.inFormat
  /-- An error at the ports is a `BusError`: no operation raises a start-up error (R92, R93). -/
  errorIsBusError : ∀ e, s.delivered = some (.err e) → ∃ k, e = .busError k
  /-- What start-up fails with is one of its two own errors (R92, R93, R103). -/
  startUpError : ∀ e, s.startUp = .failed e → e = .deviceNotReady ∨ e = .configurationError

/-- The bus may be used: the premise "handle ready" of R84 and R106, no transaction in flight (R35) and the sensor in the mode
covered (R53). -/
def State.busReady (s : State) : Prop :=
  s.handle.ready = true ∧ s.inFlight = false ∧ s.sensorMode = .standard12

/-- An operation the caller may invoke on this handle: its operands are the hardware's, a bus operation is given the
application's handle, and a count for `SCALE` is one whose product fits (R57, R15, R70). -/
def admissible (h : HandleId) (i : Instr) : Prop :=
  i.wellFormed = true ∧
    match i with
    | .transact g _ _ _ | .read g => g = h
    | .scale c => -3435973 ≤ c.toInt ∧ c.toInt ≤ 3435973
    | .compose _ _ | .extract _ | .signext _ | .decode _ | .split _ => True

/-- An event that invokes an admissible operation on this handle. -/
def Event.admissible (h : HandleId) : Event → Prop
  | .invoke i => Machine.admissible h i
  | .isReady _ | .configure _ _ _ | .readPort _ | .rest | .otherBegins | .otherEnds | .sensorIn _ => False

/-- The machine may run for ever: the bus may be used, the run has not ended at start-up, and all that the program, finite or
looping, still holds is admissible invocations (R11, R84, R100, R115). -/
structure Running (s : State) : Prop where
  busReady : s.busReady
  notFailed : ∀ e, s.startUp ≠ .failed e
  script : ∀ e ∈ s.script, e.admissible s.handle.id
  after : s.afterScript = .ends ∨ ∃ e es, s.afterScript = .loops e es ∧ ∀ x ∈ e :: es, x.admissible s.handle.id

/-- Invoked in `s`, the operation returns `Ok(v)` and changes nothing else. -/
def returns (i : Instr) (s : State) (v : Value) : Prop := exec i s = .next { s with delivered := some (.ok v) }

/-- The outcome a bus answer leads to: its two bytes decoded as R71 says, in integers, or its own error (R80). -/
def readOutcome (a : BusAnswer) (r : Result) : Prop :=
  match a with
  | .ok b0 b1 =>
    ∃ T : Wide, r = .ok (.temperature T) ∧
      T.toInt = ((16 * b0.toInt + (b1.extractLsb' 4 4).toNat) * 625).tdiv 10
  | .fail k _ _ => r = .err (.busError k)

end Sys2Proof.Machine
end

