-- ==== Sys2Proof/Certificates/Slice0/Obligations.lean ====
section
/-! DEFINITION. The statements for the provers, from the numbered rules of spec/, file by file. Results are said in integers, as
the rules say them, and not through the model's own datapath functions. `returns i s v` (Safety.lean) is: `i` invoked in `s`
completes with `Ok(v)`, and every other field of the state is as before.
-/

open Sys2Proof Sys2Proof.Machine

/-! ### Encodings (30_encoding.md) -/

/-- Operands written out bit by bit from the rows of the opcode table decode to their operations. -/
def Obligations.WrittenOutOperandsDecode : Prop :=
  decode (.transact ⟨0⟩) [0b01001000#8, 0b00000000#8, 0b00011001#8, 0b11110000#8]
      = .invocation (.transact ⟨0⟩ 0x48#7 [0x00#8] 2) (some (0x19#8, 0xF0#8))
  ∧ decode .compose [0b11100111#8, 0b00000001#8] = .invocation (.compose 0xE7#8 0x01#8) none
  ∧ decode .extract [0b11100111#8, 0b00000001#8] = .invocation (.extract 0xE701#16) none
  ∧ decode .signext [0b00001110#8, 0b01110000#8] = .invocation (.signext 0x0E70#16) none
  ∧ decode .scale [0b11111111#8, 0b11111111#8, 0b11111110#8, 0b01110000#8]
      = .invocation (.scale 0xFFFFFE70#32) none
  ∧ decode .decode [0b00011001#8, 0b00001111#8] = .invocation (.decode 0x190F#16) none
  ∧ decode (.read ⟨0⟩) [0b01001000#8, 0b00000000#8, 0b11100111#8, 0b00000000#8]
      = .invocation (.read ⟨0⟩) (some (0xE7#8, 0x00#8))
  ∧ decode .split [0b11111111#8, 0b11111111#8, 0b11111010#8, 0b00100100#8]
      = .invocation (.split 0xFFFFFA24#32) none

/-- Every well-formed operation is read back from its encoding, with the answer bytes a frame carries. -/
def Obligations.DecodeOfEncodeGivesTheOperation : Prop :=
  ∀ (i : Instr) (answer : Byte × Byte), i.wellFormed = true →
    decode i.entry (encode i answer) = .invocation i (i.carried answer)

/-- What the decoder accepts is well formed, belongs to the entry point asked for, and encodes to the bytes it came from:
an entry point's bytes have one meaning. -/
def Obligations.EncodeOfDecodeGivesTheBytes : Prop :=
  ∀ (e : Entry) (bytes : List Byte) (i : Instr) (answer : Option (Byte × Byte)),
    decode e bytes = .invocation i answer →
      i.wellFormed = true ∧ i.entry = e ∧ ∃ a, encode i a = bytes ∧ answer = i.carried a

/-- The decoder rejects exactly three things: bytes of another length than the row's (named wrongLength, with the length),
a frame whose fixed bits are not the address 0x48 and the register byte 0x00 (R50), and a frame whose bit 31, outside
R50's 31-bit pattern, is set (the model's choice, notes/assumptions/24.md). No operand value of the six pure operations is
rejected (R51). -/
def Obligations.OnlyFixedBitsAreRejected : Prop :=
  (∀ (e : Entry) (b0 b1 : Byte), e = .compose ∨ e = .extract ∨ e = .signext ∨ e = .decode →
    ∃ i, decode e [b0, b1] = .invocation i none) ∧
  (∀ (e : Entry) (b0 b1 b2 b3 : Byte), e = .scale ∨ e = .split →
    ∃ i, decode e [b0, b1, b2, b3] = .invocation i none) ∧
  (∀ (h : HandleId) (a r b0 b1 : Byte) (e : Entry), e = .transact h ∨ e = .read h →
    ((∃ i, decode e [a, r, b0, b1] = .invocation i (some (b0, b1))) ↔
      a.getLsbD 7 = false ∧ a.extractLsb' 0 7 = 0x48#7 ∧ r = 0x00#8) ∧
    ((∃ x, decode e [a, r, b0, b1] = .rejected x) ↔
      ¬(a.getLsbD 7 = false ∧ a.extractLsb' 0 7 = 0x48#7 ∧ r = 0x00#8)) ∧
    (decode e [a, r, b0, b1] = .rejected .addressTooWide ↔ a.getLsbD 7 = true)) ∧
  (∀ (e : Entry) (bytes : List Byte),
    (e = .compose ∨ e = .extract ∨ e = .signext ∨ e = .decode → bytes.length ≠ 2 →
      decode e bytes = .rejected (.wrongLength bytes.length 2)) ∧
    ((∃ h, e = .transact h ∨ e = .read h) ∨ e = .scale ∨ e = .split → bytes.length ≠ 4 →
      decode e bytes = .rejected (.wrongLength bytes.length 4)))

/-! ### The machine: reset, the step, the invariant -/

/-- After reset the handle is not ready (R23), the start-up sequence has not begun (R107), no output port has a value
(R21, D13), and nothing has been driven on the bus (the model's own field, notes/assumptions/1.md). -/
def Obligations.ResetHoldsNothing : Prop :=
  State.reset.handle.ready = false ∧ State.reset.startUp = .cold ∧ State.reset.frames = [] ∧
    ∀ p : Port, State.reset.port p = none

/-- The invariant holds at reset. -/
def Obligations.ResetMeetsTheInvariant : Prop := Inv State.reset

/-- The invariant holds after every step from every state it holds in: the handle is ready exactly after a successful
start-up, every frame begun has released the bus, a value at the ports has its format, an error at the ports is a
`BusError`, and start-up fails only with its own errors. -/
def Obligations.EveryStepKeepsTheInvariant : Prop :=
  ∀ s t : State, Inv s → step s = .next t → Inv t

/-- When the caller's next event is an invocation, and the run has not ended at start-up, the step is that operation in
the state with the event taken off (R11, R18). Where the listed script has run out, a finite program is over and its run
final (R115), a loop begins again, and a caller that goes on for ever draws its next event: the forms of R11's "finite or
infinite sequence" (the model's own, notes/assumptions/4.md and 16.md). -/
def Obligations.StepRunsTheInvokedOperation : Prop :=
  (∀ (s : State) (i : Instr) (rest : List Event), s.script = .invoke i :: rest → (∀ e, s.startUp ≠ .failed e) →
    step s = exec i { s with script := rest }) ∧
  (∀ s : State, s.script = [] → s.afterScript = .ends → step s = .next s) ∧
  (∀ (s : State) (e : Event) (es : List Event), s.script = [] → s.afterScript = .loops e es →
    step s = step { s with script := e :: es }) ∧
  (∀ (s : State) (n : Nat), s.script = [] → s.afterScript = .drawn n →
    step s = step { s with script := [Config.freeEvent n], afterScript := .drawn (n + 1) })

/-- A table word that decodes to `i`, placed by `withFetchWord`, is what the very next step runs: in the state whose
start-up has succeeded and whose next answer is the frame's answer bytes, where the word carries any. The model's own
convention (notes/assumptions/4.md). -/
def Obligations.PlacedTableWordIsRunNext : Prop :=
  ∀ (s : State) (nbits w : Nat) (i : Instr), decodeTableWord nbits w = some i →
    ∃ answer, decodeTable nbits w = some (.invocation i answer) ∧
      step (s.withFetchWord nbits w) =
        exec i { s with
          startUp := .up
          handle := ⟨s.handle.id, true⟩
          answers := (match answer with
            | some (b0, b1) => [.ok b0 b1]
            | none => []) ++ s.answers }

/-! ### Operation results -/

/-- R63: `COMPOSE` gives the word with byte 0 high and byte 1 low, in every state. -/
def Obligations.ComposePutsTheFirstByteHigh : Prop :=
  ∀ (b0 b1 : Byte) (s : State), ∃ w : Word16, returns (.compose b0 b1) s (.word w) ∧
    w.toNat = 256 * b0.toNat + b1.toNat ∧ w.extractLsb' 8 8 = b0 ∧ w.extractLsb' 0 8 = b1

/-- R64, with the logical shift of D7 (notes/assumptions/17.md): `EXTRACT` gives `sh` with bits 15:12 zero and bits 11:0
the field `w[15:4]`, and that field, in every state. -/
def Obligations.ExtractShiftsOutFourBits : Prop :=
  ∀ (w : Word16) (s : State), ∃ (sh : Word16) (f : Field12), returns (.extract w) s (.field sh f) ∧
    sh.toNat = w.toNat / 16 ∧ sh.extractLsb' 12 4 = 0#4 ∧ sh.extractLsb' 0 12 = w.extractLsb' 4 12 ∧
    f = w.extractLsb' 4 12

/-- R65, reading bits 11:0 alone as D8 does (notes/assumptions/17.md): `SIGNEXT` gives the two's-complement value of bits
11:0 of its operand, whatever bits 15:12 hold, in 16 and in 32 bits, in every state; and the 16-bit form is the operand
with 0xF000 OR-ed in or not, wherever bits 15:12 are zero. -/
def Obligations.SignextReadsTheLowTwelveBits : Prop :=
  ∀ (sh : Word16) (s : State), ∃ (c16 : Word16) (c : Wide), returns (.signext sh) s (.count c16 c) ∧
    c.toInt = (sh.extractLsb' 0 12).toInt ∧ c16.toInt = (sh.extractLsb' 0 12).toInt ∧
    (sh.toNat ≤ 0x0FFF → c16 = if sh.getLsbD 11 then sh ||| 0xF000#16 else sh)

/-- R70, with the width of D3 and the rounding of D9 (notes/assumptions/11.md, 12.md): `SCALE` gives `tdiv(c*625, 10)` in
every state for every count whose product fits 32 bits, that is for `|c| <= 3435973`, and refuses every other count by
name instead of wrapping. -/
def Obligations.ScaleMultipliesThenTruncates : Prop :=
  ∀ (c : Wide) (s : State),
    (-3435973 ≤ c.toInt ∧ c.toInt ≤ 3435973 → ∃ T : Wide, returns (.scale c) s (.temperature T) ∧
      T.toInt = (c.toInt * 625).tdiv 10) ∧
    (c.toInt < -3435973 ∨ 3435973 < c.toInt → exec (.scale c) s = .refused (.scaleProductTooWide c))

/-- R71, with the rounding of D9 (notes/assumptions/12.md): `DECODE` gives `tdiv(s_12(w[15:4]) * 625, 10)` for every one
of the 65536 words, in every state, and the result lies in −128000..+127937 (R6). -/
def Obligations.DecodeConvertsEveryWord : Prop :=
  ∀ (w : Word16) (s : State), ∃ T : Wide, returns (.decode w) s (.temperature T) ∧
    T.toInt = ((w.extractLsb' 4 12).toInt * 625).tdiv 10 ∧ -128000 ≤ T.toInt ∧ T.toInt ≤ 127937

/-- R86, with the formula of D25 (notes/assumptions/14.md): `SPLIT` gives `tdiv(T, 1000)` and `abs(trem(T, 1000))`, a
remainder of 0..999, for every 32-bit value, in every state. -/
def Obligations.SplitTruncatesAndDropsTheSign : Prop :=
  ∀ (T : Wide) (s : State), ∃ (whole : Wide) (rem : Rem10), returns (.split T) s (.display whole rem) ∧
    whole.toInt = T.toInt.tdiv 1000 ∧ (rem.toNat : Int) = |T.toInt - 1000 * T.toInt.tdiv 1000| ∧ rem.toNat ≤ 999

/-- R58: on a bus that may be used, `TRANSACT` completes with the environment's answer: exactly its two bytes, first
received first, or its error with its code and no byte, however far the frame had come; the answer is used up, one frame
more has been driven, and nothing else is changed. -/
def Obligations.TransactReturnsTheAnswer : Prop :=
  ∀ s : State, s.busReady → ∃ frame : List WireEvent,
    exec (.transact s.handle.id 0x48#7 [0x00#8] 2) s = .next { s with
      answers := s.answers.tail
      frames := s.frames ++ [frame]
      delivered := some (match s.nextAnswer with
        | .ok b0 b1 => .ok (.bytes b0 b1)
        | .fail k _ _ => .err (.busError k)) }

/-- R80, with the rounding of D9 (notes/assumptions/12.md): on a bus that may be used, `READ` completes: with the
temperature of the answer's two bytes, `tdiv((16*s_8(b0) + u(b1[7:4])) * 625, 10)`, or with the answer's own error;
exactly one answer is used up and one frame driven, and nothing else is changed. -/
def Obligations.ReadReturnsTheDecodedAnswer : Prop :=
  ∀ s : State, s.busReady → ∃ (r : Result) (frame : List WireEvent), readOutcome s.nextAnswer r ∧
    exec (.read s.handle.id) s = .next { s with
      answers := s.answers.tail
      frames := s.frames ++ [frame]
      delivered := some r }

/-- R81: a `READ` whose transaction fails hands the caller that transaction's own code, and no value; it makes no second
transaction, by this arm or the other: one answer is used up and one frame driven. -/
def Obligations.ReadPassesTheErrorOn : Prop :=
  ∀ s : State, s.busReady → ∃ (t : State) (frame : List WireEvent), exec (.read s.handle.id) s = .next t ∧
    t.answers = s.answers.tail ∧ t.frames = s.frames ++ [frame] ∧
    (∀ (k : ErrCode) (cause : BusFailure) (p : FrameProgress), s.nextAnswer = .fail k cause p →
      t.delivered = some (.err (.busError k))) ∧
    (∀ e, t.delivered = some (.err e) → ∃ k cause p, s.nextAnswer = .fail k cause p ∧ e = .busError k)

/-- R46: the one frame a successful `TRANSACT` or `READ` drives is START, address+write, register byte, RESTART,
address+read, the two data bytes (the last one not acknowledged), STOP, with the address 0x48 and the register byte 0. -/
def Obligations.FrameFollowsTheWireSequence : Prop :=
  ∀ (s : State) (i : Instr) (b0 b1 : Byte), s.busReady → s.nextAnswer = .ok b0 b1 →
    i = .transact s.handle.id 0x48#7 [0x00#8] 2 ∨ i = .read s.handle.id →
    ∃ t : State, exec i s = .next t ∧ t.frames = s.frames ++
      [[.start, .address 0x48#7 .write, .register 0x00#8, .restart, .address 0x48#7 .read,
        .data b0 true, .data b1 false, .stop]]

/-- The one frame a failing `TRANSACT` or `READ` drives is the frame of R46 broken off where the answer says, with the
data bytes received by then, and closed by STOP, so that the bus is released by either arm (R83); it is empty where the
bus was never obtained. Where it breaks off, and that STOP closes it, is the model's reading, notes/assumptions/9.md. -/
def Obligations.BrokenFrameReleasesTheBus : Prop :=
  ∀ (s : State) (i : Instr) (k : ErrCode) (cause : BusFailure) (p : FrameProgress), s.busReady →
    s.nextAnswer = .fail k cause p → i = .transact s.handle.id 0x48#7 [0x00#8] 2 ∨ i = .read s.handle.id →
    ∃ t : State, exec i s = .next t ∧ t.frames = s.frames ++ [match p with
      | .nothing => []
      | .start => [.start, .stop]
      | .addressWrite => [.start, .address 0x48#7 .write, .stop]
      | .register => [.start, .address 0x48#7 .write, .register 0x00#8, .stop]
      | .restart => [.start, .address 0x48#7 .write, .register 0x00#8, .restart, .stop]
      | .addressRead =>
        [.start, .address 0x48#7 .write, .register 0x00#8, .restart, .address 0x48#7 .read, .stop]
      | .data0 b0 =>
        [.start, .address 0x48#7 .write, .register 0x00#8, .restart, .address 0x48#7 .read, .data b0 true, .stop]
      | .data1 b0 b1 =>
        [.start, .address 0x48#7 .write, .register 0x00#8, .restart, .address 0x48#7 .read, .data b0 true,
          .data b1 false, .stop]]

/-! ### Refusals, start-up, ports -/

/-- R57 (D29): `TRANSACT` refuses, by name and in every state, each argument that is not the fixed one. Which name is
given where several arguments are wrong, and that an argument is named before readiness, overlap and sensor mode, is the
model's choice, notes/assumptions/10.md. -/
def Obligations.TransactRefusesOtherArguments : Prop :=
  ∀ (s : State) (h : HandleId) (a : BusAddress) (bs : List Byte) (n : Nat),
    (a ≠ 0x48#7 → exec (.transact h a bs n) s = .refused (.transactAddress a)) ∧
    (bs ≠ [0x00#8] → exec (.transact h 0x48#7 bs n) s = .refused (.transactWriteBytes bs)) ∧
    (n ≠ 2 → exec (.transact h 0x48#7 [0x00#8] n) s = .refused (.transactReadLength n))

/-- R84, R106, and the decisions D23 and D26 (R109, R53; notes/assumptions/10.md and 22.md): `READ` and `TRANSACT`
complete exactly on the application's handle, ready, with no other transaction in flight and the sensor in the mode
covered; each violation is refused by its own name, never turned into a `BusError`. That another handle than the one in
State is refused as not ready is the model's choice, notes/assumptions/6.md; that the operation then completes rests on
D24, notes/assumptions/7.md. -/
def Obligations.BusOperationsNeedAReadyBus : Prop :=
  ∀ (s : State) (h : HandleId) (i : Instr), i = .transact h 0x48#7 [0x00#8] 2 ∨ i = .read h →
    ((∃ t, exec i s = .next t) ↔ h = s.handle.id ∧ s.busReady) ∧
    (h ≠ s.handle.id ∨ s.handle.ready = false → exec i s = .refused (.handleNotReady h)) ∧
    (h = s.handle.id → s.handle.ready = true → s.inFlight = true → exec i s = .refused .overlappingTransaction) ∧
    (h = s.handle.id → s.handle.ready = true → s.inFlight = false → s.sensorMode = .extended →
      exec i s = .refused .sensorModeNotCovered)

/-- R109 (D23): a second transaction begun on the handle while one is in flight is refused. With none in flight, one
begins and is in flight from then on: that clause, and the event itself, are the model's own, notes/assumptions/10.md. -/
def Obligations.SecondTransactionInFlightIsRefused : Prop :=
  ∀ (s : State) (rest : List Event), s.script = .otherBegins :: rest → (∀ e, s.startUp ≠ .failed e) →
    (s.inFlight = true → step s = .refused .overlappingTransaction) ∧
    (s.inFlight = false → step s = .next { s with inFlight := true, script := rest })

/-- R107, R108, in the order of D21 (notes/assumptions/13.md): the start-up sequence. `isReady` first: `false` is the
fatal `DeviceNotReady`. Then `configure` with the controller role and 100 kHz: rejected it is the fatal
`ConfigurationError`, accepted the handle is ready. -/
def Obligations.StartUpGoesThreeWays : Prop :=
  ∀ (s : State) (rest : List Event),
    (s.startUp = .cold → s.script = .isReady false :: rest →
      step s = .next { s with startUp := .failed .deviceNotReady, script := rest }) ∧
    (s.startUp = .cold → s.script = .isReady true :: rest →
      step s = .next { s with startUp := .checked, script := rest }) ∧
    (s.startUp = .checked → s.script = .configure .controller 100000 false :: rest →
      step s = .next { s with startUp := .failed .configurationError, script := rest }) ∧
    (s.startUp = .checked → s.script = .configure .controller 100000 true :: rest →
      step s = .next { s with startUp := .up, handle := ⟨s.handle.id, true⟩, script := rest })

/-- R107, in the order of D21 (notes/assumptions/13.md): `isReady` anywhere but first, and `configure` anywhere but right
after it, are refused, and so is `configure` with another role or speed. That another role or speed is named first,
whatever the order, is the model's choice, notes/assumptions/26.md. -/
def Obligations.StartUpOutOfOrderIsRefused : Prop :=
  ∀ (s : State) (rest : List Event), (∀ e, s.startUp ≠ .failed e) →
    (∀ a, s.startUp ≠ .cold → s.script = .isReady a :: rest → step s = .refused .startUpOutOfOrder) ∧
    (∀ a, s.startUp ≠ .checked → s.script = .configure .controller 100000 a :: rest →
      step s = .refused .startUpOutOfOrder) ∧
    (∀ r f a, ¬(r = .controller ∧ f = 100000) → s.script = .configure r f a :: rest →
      step s = .refused .configureArguments)

/-- R15, R23: readiness comes only from an accepted `configure`, is never lost again, and the handle stays the same
handle. That `configure` comes after `isReady` is the order of D21 (notes/assumptions/13.md). -/
def Obligations.OnlyStartUpMakesTheHandleReady : Prop :=
  ∀ s t : State, step s = .next t →
    t.handle.id = s.handle.id ∧ (s.handle.ready = true → t.handle.ready = true) ∧
    (s.handle.ready = false → t.handle.ready = true →
      s.startUp = .checked ∧ ∃ taken, s.takeEvent = some (.configure .controller 100000 true, taken))

/-- R108: after a fatal start-up error the run has ended: anything more is refused (notes/assumptions/15.md) with that
error, and no run from there ever leaves that state, so no temperature is ever produced and no frame ever driven. -/
def Obligations.FatalStartUpErrorEndsTheRun : Prop :=
  ∀ (s : State) (e : TdcuError), s.startUp = .failed e →
    (s.script ≠ [] ∨ s.afterScript ≠ .ends → step s = .refused (.runEnded e)) ∧
    ∀ (n : Nat) (t : State), core.run n s = .next t → t = s

/-- R18, R21, with the ports of D2 and D13: after a `READ`, the ports `ok`, `err` and `err_code` equal `bus_ok`, `bus_err`
and `bus_code` of its answer. If it got two bytes, `ok` is 1, `temp_mdeg` shows the temperature and `whole` and `rem` its
split; if it failed, `ok` is 0, `err_code` shows the answer's code and the value ports have no value. (That `whole` and
`rem` show the split of `temp_mdeg` is the model's reading, notes/assumptions/8.md.) -/
def Obligations.PortsAfterARead : Prop :=
  ∀ s : State, s.busReady → ∃ t : State, exec (.read s.handle.id) s = .next t ∧
    t.port .ok = some (.bit (busOk s.nextAnswer)) ∧ t.port .err = some (.bit (busErr s.nextAnswer)) ∧
    t.port .errCode = (busCode s.nextAnswer).map .code ∧
    match s.nextAnswer with
    | .ok b0 b1 => ∃ (T whole : Wide) (rem : Rem10),
        T.toInt = ((16 * b0.toInt + (b1.extractLsb' 4 4).toNat) * 625).tdiv 10 ∧
        whole.toInt = T.toInt.tdiv 1000 ∧ rem.toNat = (T.toInt.tmod 1000).natAbs ∧
        t.port .ok = some (.bit true) ∧ t.port .errCode = none ∧
        t.port .tempMdeg = some (.wide T) ∧ t.port .whole = some (.wide whole) ∧ t.port .rem = some (.tenBits rem)
    | .fail k _ _ =>
        t.port .ok = some (.bit false) ∧ t.port .errCode = some (.code k) ∧
        t.port .tempMdeg = none ∧ t.port .whole = none ∧ t.port .rem = none

/-- R21, R100 (D13): reading a port that has no value is a fault: every port before an operation has returned, and the
value ports after an `Err`. By the model's reading of R18 (notes/assumptions/8.md) the same holds of `err_code` after an
`Ok`, of the three value ports after a `TRANSACT`, `COMPOSE`, `EXTRACT` or `SIGNEXT` that returned `Ok`, and of
`temp_mdeg` after a `SPLIT`. A port that has a value is read without changing anything, and no other port faults. -/
def Obligations.ReadingAPortWithoutValueFaults : Prop :=
  ∀ (s : State) (p : Port) (rest : List Event), s.script = .readPort p :: rest → (∀ e, s.startUp ≠ .failed e) →
    (s.delivered = none → step s = .fault (.outputHasNoValue p)) ∧
    (∀ e, s.delivered = some (.err e) → p = .tempMdeg ∨ p = .whole ∨ p = .rem →
      step s = .fault (.outputHasNoValue p)) ∧
    (∀ v, s.delivered = some (.ok v) → p = .errCode → step s = .fault (.outputHasNoValue p)) ∧
    (∀ v, s.delivered = some (.ok v) →
      (∃ b0 b1, v = .bytes b0 b1) ∨ (∃ w, v = .word w) ∨ (∃ sh f, v = .field sh f) ∨ (∃ c16 c, v = .count c16 c) →
      p = .tempMdeg ∨ p = .whole ∨ p = .rem → step s = .fault (.outputHasNoValue p)) ∧
    (∀ whole rem, s.delivered = some (.ok (.display whole rem)) → p = .tempMdeg →
      step s = .fault (.outputHasNoValue p)) ∧
    (∀ x, s.port p = some x → step s = .next { s with script := rest }) ∧
    (s.port p = none → step s = .fault (.outputHasNoValue p))

/-- What the ports show after each operation but `READ`. After `SPLIT`, `whole` and `rem` the pair; after `SCALE` and
`DECODE`, `temp_mdeg` the temperature, `whole` and `rem` its split; no other value port has a value, and none has after
`COMPOSE`, `EXTRACT`, `SIGNEXT` or a `TRANSACT`. `ok`, `err` and `err_code` are `bus_ok`, `bus_err` and `bus_code` after a
`TRANSACT`. R18 and R21 as the model reads them, notes/assumptions/8.md, and for `ok` and `err` after a pure operation the
model's own choice, notes/assumptions/23.md. -/
def Obligations.PortsAfterEachOperation : Prop :=
  (∀ (i : Instr) (s t : State), i.usesBus = false → exec i s = .next t →
    t.port .ok = some (.bit true) ∧ t.port .err = some (.bit false) ∧ t.port .errCode = none) ∧
  (∀ (T : Wide) (s : State), ∃ (t : State) (whole : Wide) (rem : Rem10), exec (.split T) s = .next t ∧
    whole.toInt = T.toInt.tdiv 1000 ∧ rem.toNat = (T.toInt.tmod 1000).natAbs ∧
    t.port .tempMdeg = none ∧ t.port .whole = some (.wide whole) ∧ t.port .rem = some (.tenBits rem)) ∧
  (∀ (i : Instr) (n : Int) (s : State),
    (∃ w : Word16, i = .decode w ∧ n = (w.extractLsb' 4 12).toInt) ∨
    (∃ c : Wide, i = .scale c ∧ n = c.toInt ∧ -3435973 ≤ n ∧ n ≤ 3435973) →
    ∃ (t : State) (T whole : Wide) (rem : Rem10), exec i s = .next t ∧ T.toInt = (n * 625).tdiv 10 ∧
      whole.toInt = T.toInt.tdiv 1000 ∧ rem.toNat = (T.toInt.tmod 1000).natAbs ∧
      t.port .tempMdeg = some (.wide T) ∧ t.port .whole = some (.wide whole) ∧ t.port .rem = some (.tenBits rem)) ∧
  (∀ (i : Instr) (s : State), (∃ b0 b1, i = .compose b0 b1) ∨ (∃ w, i = .extract w) ∨ (∃ sh, i = .signext sh) →
    ∃ t : State, exec i s = .next t ∧ t.port .tempMdeg = none ∧ t.port .whole = none ∧ t.port .rem = none) ∧
  (∀ s : State, s.busReady → ∃ t : State, exec (.transact s.handle.id 0x48#7 [0x00#8] 2) s = .next t ∧
    t.port .ok = some (.bit (busOk s.nextAnswer)) ∧ t.port .err = some (.bit (busErr s.nextAnswer)) ∧
    t.port .errCode = (busCode s.nextAnswer).map .code ∧
    t.port .tempMdeg = none ∧ t.port .whole = none ∧ t.port .rem = none)

/-- R21, R53, R109: a caller at rest leaves the outputs without a value; another transaction's end and the sensor's mode
change their own field alone (the model's own events, notes/assumptions/10.md). -/
def Obligations.EnvironmentEventsChangeTheirOwnField : Prop :=
  ∀ (s : State) (rest : List Event), (∀ e, s.startUp ≠ .failed e) →
    (s.script = .rest :: rest → ∃ t, step s = .next t ∧ t = { s with delivered := none, script := rest } ∧
      ∀ p, t.port p = none) ∧
    (s.script = .otherEnds :: rest → step s = .next { s with inFlight := false, script := rest }) ∧
    (∀ m, s.script = .sensorIn m :: rest → step s = .next { s with sensorMode := m, script := rest })

/-! ### Laws of the field decode (41_field_decode.md section 2) -/

/-- R66: the logical shift with the sign extension, the arithmetic shift with the sign extension, the arithmetic shift
alone and the floored quotient by 16 all give the same count. -/
def Obligations.ShiftKindDoesNotMatter : Prop :=
  ∀ (w : Word16) (s : State), ∃ (c16 : Word16) (c : Wide),
    returns (.signext (w >>> 4)) s (.count c16 c) ∧ returns (.signext (w.sshiftRight 4)) s (.count c16 c) ∧
    c.toInt = (w.sshiftRight 4).toInt ∧ c.toInt = w.toInt.fdiv 16

/-- R67: the six closed forms of the count of a word, in the field, in the word and in the two bytes, and its sign bit. -/
def Obligations.CountClosedFormsAgree : Prop :=
  ∀ (b0 b1 : Byte) (w : Word16) (s : State), returns (.compose b0 b1) s (.word w) →
    ∃ (sh c16 : Word16) (f : Field12) (c : Wide),
      returns (.extract w) s (.field sh f) ∧ returns (.signext sh) s (.count c16 c) ∧ f = w.extractLsb' 4 12 ∧
      c.toInt = (f.toNat : Int) - 4096 * (if f.getLsbD 11 then 1 else 0) ∧
      c.toInt = (if f.toNat < 2048 then (f.toNat : Int) else (f.toNat : Int) - 4096) ∧
      c.toInt = ((f ^^^ 0x800#12).toNat : Int) - 0x800 ∧
      c.toInt = (w.sshiftRight 4).toInt ∧ c.toInt = w.toInt.fdiv 16 ∧
      16 * c.toInt = w.toInt - ((w.extractLsb' 0 4).toNat : Int) ∧
      c.toInt = 16 * b0.toInt + ((b1.extractLsb' 4 4).toNat : Int) ∧
      (c.toInt < 0 ↔ w.getLsbD 15 = true) ∧ (c.toInt < 0 ↔ b0.getLsbD 7 = true)

/-- R68: the count depends only on `w[15:4]`: putting any four bits `x` in bits 3:0 leaves it, and the words that give a
count are exactly the sixteen that differ in those bits alone. -/
def Obligations.LowFourBitsAreIgnored : Prop :=
  (∀ (w : Word16) (x : BitVec 4) (s : State) (c16 : Word16) (c : Wide),
    returns (.signext (w >>> 4)) s (.count c16 c) →
      returns (.signext (((w &&& 0xFFF0#16) ||| x.setWidth 16) >>> 4)) s (.count c16 c)) ∧
  (∀ n : Int, -2048 ≤ n → n ≤ 2047 → ∃ f : Field12, ∀ (w : Word16) (s : State) (c16 : Word16) (c : Wide),
    returns (.signext (w >>> 4)) s (.count c16 c) →
      (c.toInt = n ↔ ∃ x : BitVec 4, w = f ++ x))

/-- R52 (D10): `DECODE(w) = DECODE(w & 0xFFF0)`, whatever bits 3:0 hold. And two words decode alike only if they agree in
bits 15:4, since field to count (R69) and count to temperature (R76) are one-to-one. -/
def Obligations.DecodeSeesOnlyTheField : Prop :=
  ∀ (w v : Word16) (s : State),
    exec (.decode w) s = exec (.decode (w &&& 0xFFF0#16)) s ∧
    (exec (.decode w) s = exec (.decode v) s ↔ w.extractLsb' 4 12 = v.extractLsb' 4 12)

/-- R69: the map from field to count is a bijection onto −2048..+2047, non-negative exactly on 0x000..0x7FF; the
left-justified word `((c mod 4096) << 4) | x` is its inverse. -/
def Obligations.FieldToCountIsABijection : Prop :=
  (∀ (f : Field12) (s : State), ∃ (c16 : Word16) (c : Wide),
    returns (.signext (f.setWidth 16)) s (.count c16 c) ∧
    (f.toNat ≤ 0x7FF → 0 ≤ c.toInt ∧ c.toInt ≤ 2047) ∧ (0x800 ≤ f.toNat → -2048 ≤ c.toInt ∧ c.toInt ≤ -1)) ∧
  (∀ (f g : Field12) (s : State) (c16 d16 : Word16) (c d : Wide),
    returns (.signext (f.setWidth 16)) s (.count c16 c) → returns (.signext (g.setWidth 16)) s (.count d16 d) →
      c.toInt = d.toInt → f = g) ∧
  (∀ (n : Int) (x : BitVec 4) (s : State), -2048 ≤ n → n ≤ 2047 →
    ∃ (sh c16 : Word16) (f : Field12) (c : Wide),
      returns (.extract ((BitVec.ofInt 16 (n % 4096) <<< 4) ||| x.setWidth 16)) s (.field sh f) ∧
      returns (.signext sh) s (.count c16 c) ∧ c.toInt = n)

/-! ### Laws of the scaling (42_scale_decode.md section 2) -/

/-- R73: on the counts of the datapath the division truncates toward zero, `|T| = floor(|625*c| / 10)` with the sign of
the product; what it drops is 0 for an even count, +5 for an odd positive and −5 for an odd negative one; and it differs
from flooring exactly at the odd negative counts, where the floored value is one less. -/
def Obligations.ScaleTruncatesTowardZero : Prop :=
  ∀ (c : Wide) (s : State), -2048 ≤ c.toInt → c.toInt ≤ 2047 →
    ∃ T : Wide, returns (.scale c) s (.temperature T) ∧
      T.toInt.natAbs = (625 * c.toInt).natAbs / 10 ∧ (0 ≤ c.toInt → 0 ≤ T.toInt) ∧ (c.toInt ≤ 0 → T.toInt ≤ 0) ∧
      (c.toInt % 2 = 0 → 625 * c.toInt - 10 * T.toInt = 0) ∧
      (c.toInt % 2 = 1 → 0 < c.toInt → 625 * c.toInt - 10 * T.toInt = 5) ∧
      (c.toInt % 2 = 1 → c.toInt < 0 → 625 * c.toInt - 10 * T.toInt = -5) ∧
      (625 * c.toInt).fdiv 10 = T.toInt - (if c.toInt % 2 = 1 ∧ c.toInt < 0 then 1 else 0)

/-- R74: the five equivalent forms of `tdiv(c*625, 10)`, the shift-and-add ones on 32-bit words; and the two bare shifts,
which floor, so that they are one less at the odd negative counts. -/
def Obligations.ScaleEquivalentFormsAgree : Prop :=
  ∀ (c : Wide) (s : State), -2048 ≤ c.toInt → c.toInt ≤ 2047 →
    ∃ T : Wide, returns (.scale c) s (.temperature T) ∧
      T.toInt = (c.toInt * 125).tdiv 2 ∧
      T.toInt = 62 * c.toInt + c.toInt.tdiv 2 ∧
      T.toInt = c.toInt.sign * ((c.toInt.natAbs * 625 / 10 : Nat) : Int) ∧
      (let k : Wide := (c <<< 7) - (c <<< 2) + c
       T = (k + (if k.toInt < 0 then 1#32 else 0#32)).sshiftRight 1) ∧
      T = 62#32 * c + c.sshiftRight 1 + (if c.toInt < 0 ∧ c.toInt % 2 = 1 then 1#32 else 0#32) ∧
      ((c * 64000#32).sshiftRight 10).toInt = T.toInt - (if c.toInt < 0 ∧ c.toInt % 2 = 1 then 1 else 0) ∧
      ((125#32 * c).sshiftRight 1).toInt = T.toInt - (if c.toInt < 0 ∧ c.toInt % 2 = 1 then 1 else 0)

/-- R75: any width of at least 22 bits for the product gives the result of `SCALE`; the result fits 18 bits and the
product 22; with 16 bits the product is wrong exactly for `|c| >= 53`. -/
def Obligations.ScaleDoesNotDependOnTheWidth : Prop :=
  ∀ (c : Wide) (s : State), -2048 ≤ c.toInt → c.toInt ≤ 2047 →
    (∀ width : Nat, 22 ≤ width → ∃ T : Wide, returns (.scale c) s (.temperature T) ∧
      T.toInt = (BitVec.ofInt width ((BitVec.ofInt width (c.toInt * 625)).toInt.tdiv 10)).toInt) ∧
    (∀ T : Wide, returns (.scale c) s (.temperature T) → -(2 ^ 17) ≤ T.toInt ∧ T.toInt < 2 ^ 17) ∧
    -(2 ^ 21) ≤ c.toInt * 625 ∧ c.toInt * 625 < 2 ^ 21 ∧
    ((BitVec.ofInt 16 (c.toInt * 625)).toInt = c.toInt * 625 ↔ -53 < c.toInt ∧ c.toInt < 53)

/-- R76, but for its last clause: `SCALE` is strictly increasing, consecutive counts differ by 62 (after an even
non-negative or an odd negative count) or by 63, and the end points are −128000 and +127937. R76 adds that two consecutive
steps always add up to 125; at `c = −1` they add up to 124, and this says so (NOTES.md). -/
def Obligations.ScaleIsStrictlyIncreasing : Prop :=
  (∀ (c d : Wide) (s : State) (T U : Wide), -2048 ≤ c.toInt → c.toInt < d.toInt → d.toInt ≤ 2047 →
    returns (.scale c) s (.temperature T) → returns (.scale d) s (.temperature U) →
      T.toInt < U.toInt ∧
      (d.toInt = c.toInt + 1 → U.toInt - T.toInt =
        if (0 ≤ c.toInt ∧ c.toInt % 2 = 0) ∨ (c.toInt < 0 ∧ c.toInt % 2 = 1) then 62 else 63) ∧
      (d.toInt = c.toInt + 2 → U.toInt - T.toInt = if c.toInt = -1 then 124 else 125)) ∧
  (∀ s : State, returns (.scale (BitVec.ofInt 32 (-2048))) s (.temperature (BitVec.ofInt 32 (-128000))) ∧
    returns (.scale 2047#32) s (.temperature 127937#32))

/-- R77: `SCALE(−c) = −SCALE(c)` for every count that has a partner of the other sign; a flooring division breaks this at
every odd count. -/
def Obligations.ScaleIsSymmetric : Prop :=
  ∀ (c : Wide) (s : State), -2047 ≤ c.toInt → c.toInt ≤ 2047 →
    ∃ T U : Wide, returns (.scale c) s (.temperature T) ∧ returns (.scale (-c)) s (.temperature U) ∧
      U.toInt = -T.toInt ∧ (c.toInt % 2 = 1 → (625 * -c.toInt).fdiv 10 ≠ -(625 * c.toInt).fdiv 10)

/-! ### Laws of the display split (44_display_split.md) -/

/-- R89: `T` is rebuilt from the pair and its sign; the pair alone gives `T` back exactly when `whole != 0` or `rem = 0`,
and only `abs(T)` otherwise; for a decoded word `whole` lies in −128..+127 and `rem` takes one of sixteen values. -/
def Obligations.SplitCanBeRebuilt : Prop :=
  (∀ (T : Wide) (s : State) (whole : Wide) (rem : Rem10), returns (.split T) s (.display whole rem) →
    T.toInt = (if 0 ≤ T.toInt then 1000 * whole.toInt + rem.toNat else 1000 * whole.toInt - rem.toNat) ∧
    |T.toInt| = 1000 * |whole.toInt| + rem.toNat ∧
    ((whole ≠ 0#32 ∨ rem = 0#10) ↔ ∀ U : Wide, returns (.split U) s (.display whole rem) → U = T) ∧
    (∀ U : Wide, returns (.split U) s (.display whole rem) → |U.toInt| = |T.toInt|)) ∧
  (∀ (w : Word16) (s : State) (T whole : Wide) (rem : Rem10),
    returns (.decode w) s (.temperature T) → returns (.split T) s (.display whole rem) →
      -128 ≤ whole.toInt ∧ whole.toInt ≤ 127 ∧
      rem.toNat ∈ [0, 62, 125, 187, 250, 312, 375, 437, 500, 562, 625, 687, 750, 812, 875, 937])

/-- R87 (D25, notes/assumptions/14.md): between −1 and 0 degrees the sign is lost: for `T` in −999..−1 the pair is `(0,
abs(T))`, the pair of `−T`; among the counts exactly −15..−1 are affected. -/
def Obligations.SplitLosesTheSignBelowOneDegree : Prop :=
  (∀ (T : Wide) (s : State), -999 ≤ T.toInt → T.toInt ≤ -1 → ∃ rem : Rem10,
    returns (.split T) s (.display 0#32 rem) ∧ returns (.split (-T)) s (.display 0#32 rem) ∧
      (rem.toNat : Int) = |T.toInt|) ∧
  (∀ (c T whole : Wide) (rem : Rem10) (s : State), -2048 ≤ c.toInt → c.toInt ≤ 2047 →
    returns (.scale c) s (.temperature T) → returns (.split T) s (.display whole rem) →
      (T.toInt < 0 ∧ whole = 0#32 ↔ -15 ≤ c.toInt ∧ c.toInt ≤ -1))

/-! ### Whole-machine rules -/

/-- R71, R47: `DECODE` is `EXTRACT`, `SIGNEXT` and `SCALE` in turn: invoking the three one after the other, each on the
last one's result, ends in the state `DECODE` ends in. -/
def Obligations.DecodeIsTheThreeSteps : Prop :=
  ∀ (w : Word16) (s : State), ∃ (t1 t2 t3 : State) (sh c16 : Word16) (f : Field12) (c : Wide),
    exec (.extract w) s = .next t1 ∧ t1.delivered = some (.ok (.field sh f)) ∧
    exec (.signext sh) t1 = .next t2 ∧ t2.delivered = some (.ok (.count c16 c)) ∧
    exec (.scale c) t2 = .next t3 ∧ exec (.decode w) s = .next t3

/-- R80: `READ` is `TRANSACT`, then, on its two bytes, `COMPOSE` and `DECODE`: invoked one after the other they end in the
state `READ` ends in; on an error, `READ` ends where `TRANSACT` ends. -/
def Obligations.ReadIsTransactThenDecode : Prop :=
  ∀ s t : State, exec (.transact s.handle.id 0x48#7 [0x00#8] 2) s = .next t →
    (∀ b0 b1, t.delivered = some (.ok (.bytes b0 b1)) → ∃ (u v : State) (w : Word16),
      exec (.compose b0 b1) t = .next u ∧ u.delivered = some (.ok (.word w)) ∧
      exec (.decode w) u = .next v ∧ exec (.read s.handle.id) s = .next v) ∧
    (∀ e, t.delivered = some (.err e) → exec (.read s.handle.id) s = .next t)

/-- R8: a pure operation is a function of its operands alone: in any two states it completes with the same value, changing
nothing else, or is refused alike; and on a bus that may be used, what `READ` hands out is a function of its handle and of
the answer to its one transaction. -/
def Obligations.PureOperationsIgnoreTheState : Prop :=
  (∀ (i : Instr) (s s' : State), i.usesBus = false →
    (∃ v, returns i s v ∧ returns i s' v) ∨ (∃ r, exec i s = .refused r ∧ exec i s' = .refused r)) ∧
  (∀ s s' : State, s.busReady → s'.busReady → s.handle.id = s'.handle.id → s.nextAnswer = s'.nextAnswer →
    ∃ t t' : State, exec (.read s.handle.id) s = .next t ∧ exec (.read s.handle.id) s' = .next t' ∧
      t.delivered = t'.delivered)

/-- THE FRAME of every operation (R10, R14, R60): whatever completes leaves start-up, handle, in-flight mark, sensor mode
and script as they were; a pure operation changes the outputs alone; a bus operation also uses up one answer and drives
one frame. -/
def Obligations.OperationsChangeNothingElse : Prop :=
  ∀ (i : Instr) (s t : State), exec i s = .next t →
    t.startUp = s.startUp ∧ t.handle = s.handle ∧ t.inFlight = s.inFlight ∧ t.sensorMode = s.sensorMode ∧
    t.script = s.script ∧ t.afterScript = s.afterScript ∧
    (i.usesBus = false → t.answers = s.answers ∧ t.frames = s.frames) ∧
    (i.usesBus = true → t.answers = s.answers.tail ∧ ∃ f, t.frames = s.frames ++ [f])

/-- R94 (and of R92 and R93 that no operation raises a start-up error): an operation that completes with an error is a bus
operation whose transaction failed, and the error is a `BusError` with that failure's own code; the other six have no
error outcome. -/
def Obligations.OnlyTheBusReportsErrors : Prop :=
  ∀ (i : Instr) (s t : State) (e : TdcuError), exec i s = .next t → t.delivered = some (.err e) →
    i.usesBus = true ∧ ∃ k cause progress, s.nextAnswer = .fail k cause progress ∧ e = .busError k

/-- R91 (D12): the code of a `BusError` is copied and never inspected: the same failure with another code leads to the
same state but for the code handed out; and the failure's cause is not seen at all. -/
def Obligations.ErrorCodesAreCopiedUnseen : Prop :=
  ∀ (s t : State) (i : Instr) (k k' : ErrCode) (cause cause' : BusFailure) (p : FrameProgress) (rest : List BusAnswer),
    i.usesBus = true → exec i { s with answers := .fail k cause p :: rest } = .next t →
      exec i { s with answers := .fail k' cause' p :: rest } =
        .next { t with delivered := some (.err (.busError k')) }

/-- R14: nothing of an earlier operation is visible to a later one. Replace what the last invocation handed out, and what
earlier transactions drove, by anything else: the operation ends the same way, hands out the same and drives the same.
Only where a bus operation's answer is not listed must as many frames stand, since their number then chooses the draw
(notes/assumptions/3.md). -/
def Obligations.EarlierOperationsAreInvisible : Prop :=
  ∀ (i : Instr) (s : State) (handedOut : Option Result) (driven : List (List WireEvent)),
    (i.usesBus = true → s.answers = [] → driven.length = s.frames.length) →
    match exec i s with
    | .next t => exec i { s with delivered := handedOut, frames := driven } =
        .next { t with frames := driven ++ t.frames.drop s.frames.length }
    | .fault x => exec i { s with delivered := handedOut, frames := driven } = .fault x
    | .refused x => exec i { s with delivered := handedOut, frames := driven } = .refused x

/-- R82: for any sequence of reads on a bus that may be used, whatever the earlier answers, the result of the last is the
result of a single read that gets that read's own answer, and as many transactions have been driven as reads were made:
none is retried, none is served from an earlier one's bytes. -/
def Obligations.NthReadDependsOnItsOwnAnswer : Prop :=
  ∀ (s : State) (n : Nat) (earlier later : List BusAnswer) (a : BusAnswer) (rest : List Event),
    s.busReady → (∀ e, s.startUp ≠ .failed e) → earlier.length = n → s.answers = earlier ++ a :: later →
    s.script = List.replicate (n + 1) (.invoke (.read s.handle.id)) ++ rest →
    ∃ t u : State, core.run (n + 1) s = .next t ∧
      exec (.read s.handle.id) { s with answers := [a], frames := [], delivered := none } = .next u ∧
      t.delivered = u.delivered ∧ t.answers = later ∧ t.frames.length = s.frames.length + n + 1 ∧ t.handle = s.handle ∧ t.script = rest

/-- R100, with the assumption D24 that a transaction returns (notes/assumptions/7.md): on a bus that may be used, a run of
admissible operations never stops, whatever the bus answers: a `BusError` ends nothing. A finite program's run is final
past its end (notes/assumptions/16.md). -/
def Obligations.AdmissibleRunsNeverStop : Prop :=
  ∀ (s : State) (ops : List Instr), s.busReady → (∀ e, s.startUp ≠ .failed e) →
    (∀ i ∈ ops, admissible s.handle.id i) → s.script = ops.map .invoke → s.afterScript = .ends →
    ∀ n : Nat, ∃ t : State, core.run n s = .next t ∧ t.script = (ops.drop n).map .invoke

/-- R100 as a step: in every state whose bus may be used and whose program, all of it, invokes admissible operations, a
step answers a next state, and that state is such a state again (the assumption D24, notes/assumptions/7.md). -/
def Obligations.AdmissibleStepsKeepRunning : Prop :=
  ∀ s : State, Running s → ∃ t : State, step s = .next t ∧ Running t

/-- R11, R115: the endless polling loop. From every state whose bus may be used, a program that reads again and again
takes one step after the other for ever, whatever the bus answers, and has driven one transaction for each (the form
`loops` is the model's own, notes/assumptions/4.md; D24, notes/assumptions/7.md). -/
def Obligations.PollingLoopNeverEnds : Prop :=
  ∀ s : State, s.busReady → (∀ e, s.startUp ≠ .failed e) → s.script = [] →
    s.afterScript = .loops (.invoke (.read s.handle.id)) [] →
    ∀ n : Nat, ∃ t : State, core.run n s = .next t ∧ t.frames.length = s.frames.length + n ∧
      t.answers = s.answers.drop n ∧ t.handle = s.handle ∧ t.script = [] ∧ t.afterScript = s.afterScript

/-- R11: every infinite program of admissible operations, periodic or not, has its endless run on a bus that may be used:
a state after each operation, each the next operation's from the one before, and each what running the program's first
part as a script gives (the form of a script is the model's own, notes/assumptions/4.md; D24, notes/assumptions/7.md). -/
def Obligations.InfiniteProgramsHaveARun : Prop :=
  ∀ (s : State) (program : Nat → Instr), s.busReady → (∀ e, s.startUp ≠ .failed e) →
    (∀ k, admissible s.handle.id (program k)) →
    ∃ after : Nat → State, after 0 = { s with script := [] } ∧ ∀ n : Nat,
      exec (program n) (after n) = .next (after (n + 1)) ∧
      core.run n { s with script := (List.range n).map fun k => .invoke (program k) } = .next (after n)
end

