-- ==== Sys2Proof/Laws/Operands.lean ====
section
/-! SUPPORT. One spec lemma per datapath function, in integers: what each gives, so that no later proof unfolds its bits.
-/

namespace Sys2Proof.Machine

/-- Division truncating toward zero, as the two floored divisions `omega` knows. -/
theorem tdiv_cases (n k : Int) : (0 ≤ n → n.tdiv k = n / k) ∧ (n ≤ 0 → n.tdiv k = -(-n / k)) := by
  refine ⟨Int.tdiv_eq_ediv_of_nonneg, fun h => ?_⟩
  have : (-n).tdiv k = -n / k := Int.tdiv_eq_ediv_of_nonneg (by omega)
  rw [Int.neg_tdiv] at this
  omega

theorem wide_toInt_bounds (v : Wide) : -2147483648 ≤ v.toInt ∧ v.toInt ≤ 2147483647 := by
  have := v.le_toInt
  have := v.toInt_lt
  omega

theorem field_toInt_bounds (f : Field12) : -2048 ≤ f.toInt ∧ f.toInt ≤ 2047 := by
  have := f.le_toInt
  have := f.toInt_lt
  omega

/-- An integer in the range of `W` bits is held exactly. -/
theorem wide_ofInt_toInt {n : Int} (lo : -2147483648 ≤ n) (hi : n ≤ 2147483647) : (BitVec.ofInt 32 n).toInt = n := by
  rw [BitVec.toInt_ofInt]
  apply Int.bmod_eq_of_le <;> omega

theorem composeWord_toNat (b0 b1 : Byte) : (composeWord b0 b1).toNat = 256 * b0.toNat + b1.toNat := by
  have h0 := b0.isLt
  have h1 := b1.isLt
  have h : (b0.setWidth 16 <<< 8).toNat = b0.toNat <<< 8 := by
    simp [Nat.shiftLeft_eq]
    omega
  rw [composeWord, BitVec.toNat_or, h, BitVec.toNat_setWidth_of_le (by decide), ← Nat.shiftLeft_add_eq_or_of_lt h1,
    Nat.shiftLeft_eq]
  omega

theorem fieldOf_shiftedOf (w : Word16) : fieldOf (shiftedOf w) = w.extractLsb' 4 12 := by
  apply BitVec.eq_of_getLsbD_eq
  intro i hi
  simp [fieldOf, shiftedOf, Nat.add_comm]

/-- The OR with 0xF000 is the sign extension of the field to 16 bits. -/
theorem count16Of_eq_signExtend (sh : Word16) : count16Of sh = (fieldOf sh).signExtend 16 := by
  apply BitVec.eq_of_getLsbD_eq
  intro i hi
  rw [BitVec.getLsbD_signExtend, BitVec.msb_eq_getLsbD_last]
  cases h : (fieldOf sh).getLsbD 11
  · simp only [count16Of, h]
    interval_cases i <;> simp
  · simp only [count16Of, h, if_true, BitVec.getLsbD_or, BitVec.getLsbD_setWidth]
    interval_cases i <;> simp

theorem count16Of_toInt (sh : Word16) : (count16Of sh).toInt = (fieldOf sh).toInt := by
  rw [count16Of_eq_signExtend, BitVec.toInt_signExtend_of_le (by decide)]

theorem countOf_toInt (sh : Word16) : (countOf sh).toInt = (fieldOf sh).toInt := by
  rw [countOf, BitVec.toInt_signExtend_of_le (by decide), count16Of_toInt]

/-- The counts `SCALE` takes without refusing. -/
theorem productFits_iff (c : Wide) : productFits c = true ↔ -3435973 ≤ c.toInt ∧ c.toInt ≤ 3435973 := by
  simp only [productFits, productOf, Config.scaleNum, Bool.and_eq_true]
  norm_num
  omega

theorem scaled_toInt {c : Wide} (lo : -3435973 ≤ c.toInt) (hi : c.toInt ≤ 3435973) :
    (scaled c).toInt = (c.toInt * 625).tdiv 10 := by
  have := tdiv_cases (c.toInt * 625) 10
  exact wide_ofInt_toInt (by simp only [productOf, Config.scaleNum, Config.scaleDen]; omega)
    (by simp only [productOf, Config.scaleNum, Config.scaleDen]; omega)

theorem decoded_toInt (w : Word16) : (decoded w).toInt = ((w.extractLsb' 4 12).toInt * 625).tdiv 10 := by
  have h := countOf_toInt (shiftedOf w)
  rw [fieldOf_shiftedOf] at h
  have := field_toInt_bounds (w.extractLsb' 4 12)
  rw [decoded, scaled_toInt (by omega) (by omega), h]

theorem wholeOf_toInt (T : Wide) : (wholeOf T).toInt = T.toInt.tdiv 1000 := by
  have := tdiv_cases T.toInt 1000
  have := wide_toInt_bounds T
  exact wide_ofInt_toInt (by simp only [Config.displayDiv]; omega) (by simp only [Config.displayDiv]; omega)

theorem remOf_toNat (T : Wide) : (remOf T).toNat = (T.toInt.tmod 1000).natAbs := by
  have := tdiv_cases T.toInt 1000
  have := Int.tmod_add_mul_tdiv T.toInt 1000
  have := wide_toInt_bounds T
  rw [remOf, BitVec.toNat_ofNat, Nat.mod_eq_of_lt]
  simp only [Config.displayDiv]
  omega

end Sys2Proof.Machine
end

