-- ==== Sys2Proof/Laws/State.lean ====
section
/-! SUPPORT. One lemma per field per update of State, true by rfl, so that no later proof unfolds a record update.
-/

namespace Sys2Proof.Machine

/-! ### `deliver` -/

@[simp] theorem State.deliver_startUp (r : Result) (s : State) :
    (s.deliver r).startUp = s.startUp := rfl

@[simp] theorem State.deliver_handle (r : Result) (s : State) :
    (s.deliver r).handle = s.handle := rfl

@[simp] theorem State.deliver_inFlight (r : Result) (s : State) :
    (s.deliver r).inFlight = s.inFlight := rfl

@[simp] theorem State.deliver_sensorMode (r : Result) (s : State) :
    (s.deliver r).sensorMode = s.sensorMode := rfl

@[simp] theorem State.deliver_answers (r : Result) (s : State) :
    (s.deliver r).answers = s.answers := rfl

@[simp] theorem State.deliver_frames (r : Result) (s : State) :
    (s.deliver r).frames = s.frames := rfl

@[simp] theorem State.deliver_delivered (r : Result) (s : State) :
    (s.deliver r).delivered = some r := rfl

@[simp] theorem State.deliver_script (r : Result) (s : State) :
    (s.deliver r).script = s.script := rfl

@[simp] theorem State.deliver_afterScript (r : Result) (s : State) :
    (s.deliver r).afterScript = s.afterScript := rfl

/-! ### `returnOk` -/

@[simp] theorem State.returnOk_startUp (v : Value) (s : State) :
    (s.returnOk v).startUp = s.startUp := rfl

@[simp] theorem State.returnOk_handle (v : Value) (s : State) :
    (s.returnOk v).handle = s.handle := rfl

@[simp] theorem State.returnOk_inFlight (v : Value) (s : State) :
    (s.returnOk v).inFlight = s.inFlight := rfl

@[simp] theorem State.returnOk_sensorMode (v : Value) (s : State) :
    (s.returnOk v).sensorMode = s.sensorMode := rfl

@[simp] theorem State.returnOk_answers (v : Value) (s : State) :
    (s.returnOk v).answers = s.answers := rfl

@[simp] theorem State.returnOk_frames (v : Value) (s : State) :
    (s.returnOk v).frames = s.frames := rfl

@[simp] theorem State.returnOk_delivered (v : Value) (s : State) :
    (s.returnOk v).delivered = some (.ok v) := rfl

@[simp] theorem State.returnOk_script (v : Value) (s : State) :
    (s.returnOk v).script = s.script := rfl

@[simp] theorem State.returnOk_afterScript (v : Value) (s : State) :
    (s.returnOk v).afterScript = s.afterScript := rfl

/-! ### `raise` -/

@[simp] theorem State.raise_startUp (e : TdcuError) (s : State) :
    (s.raise e).startUp = s.startUp := rfl

@[simp] theorem State.raise_handle (e : TdcuError) (s : State) :
    (s.raise e).handle = s.handle := rfl

@[simp] theorem State.raise_inFlight (e : TdcuError) (s : State) :
    (s.raise e).inFlight = s.inFlight := rfl

@[simp] theorem State.raise_sensorMode (e : TdcuError) (s : State) :
    (s.raise e).sensorMode = s.sensorMode := rfl

@[simp] theorem State.raise_answers (e : TdcuError) (s : State) :
    (s.raise e).answers = s.answers := rfl

@[simp] theorem State.raise_frames (e : TdcuError) (s : State) :
    (s.raise e).frames = s.frames := rfl

@[simp] theorem State.raise_delivered (e : TdcuError) (s : State) :
    (s.raise e).delivered = some (.err e) := rfl

@[simp] theorem State.raise_script (e : TdcuError) (s : State) :
    (s.raise e).script = s.script := rfl

@[simp] theorem State.raise_afterScript (e : TdcuError) (s : State) :
    (s.raise e).afterScript = s.afterScript := rfl

/-! ### `afterTransaction` -/

@[simp] theorem State.afterTransaction_startUp (a : BusAddress) (r : Byte) (s : State) :
    (s.afterTransaction a r).startUp = s.startUp := rfl

@[simp] theorem State.afterTransaction_handle (a : BusAddress) (r : Byte) (s : State) :
    (s.afterTransaction a r).handle = s.handle := rfl

@[simp] theorem State.afterTransaction_inFlight (a : BusAddress) (r : Byte) (s : State) :
    (s.afterTransaction a r).inFlight = s.inFlight := rfl

@[simp] theorem State.afterTransaction_sensorMode (a : BusAddress) (r : Byte) (s : State) :
    (s.afterTransaction a r).sensorMode = s.sensorMode := rfl

@[simp] theorem State.afterTransaction_answers (a : BusAddress) (r : Byte) (s : State) :
    (s.afterTransaction a r).answers = s.answers.tail := rfl

@[simp] theorem State.afterTransaction_frames (a : BusAddress) (r : Byte) (s : State) :
    (s.afterTransaction a r).frames = s.frames ++ [frameOf a r s.nextAnswer] := rfl

@[simp] theorem State.afterTransaction_delivered (a : BusAddress) (r : Byte) (s : State) :
    (s.afterTransaction a r).delivered = s.delivered := rfl

@[simp] theorem State.afterTransaction_script (a : BusAddress) (r : Byte) (s : State) :
    (s.afterTransaction a r).script = s.script := rfl

@[simp] theorem State.afterTransaction_afterScript (a : BusAddress) (r : Byte) (s : State) :
    (s.afterTransaction a r).afterScript = s.afterScript := rfl

/-! ### `started` -/

@[simp] theorem State.started_startUp (s : State) :
    (s.started).startUp = .up := rfl

@[simp] theorem State.started_handle (s : State) :
    (s.started).handle = ⟨s.handle.id, true⟩ := rfl

@[simp] theorem State.started_inFlight (s : State) :
    (s.started).inFlight = s.inFlight := rfl

@[simp] theorem State.started_sensorMode (s : State) :
    (s.started).sensorMode = s.sensorMode := rfl

@[simp] theorem State.started_answers (s : State) :
    (s.started).answers = s.answers := rfl

@[simp] theorem State.started_frames (s : State) :
    (s.started).frames = s.frames := rfl

@[simp] theorem State.started_delivered (s : State) :
    (s.started).delivered = s.delivered := rfl

@[simp] theorem State.started_script (s : State) :
    (s.started).script = s.script := rfl

@[simp] theorem State.started_afterScript (s : State) :
    (s.started).afterScript = s.afterScript := rfl

/-! ### `returnAnswer`: an answer delivered changes the outputs alone -/

@[simp] theorem State.returnAnswer_startUp (value : Byte → Byte → Value) (a : BusAnswer) (s : State) :
    (s.returnAnswer value a).startUp = s.startUp := by cases a <;> rfl

@[simp] theorem State.returnAnswer_handle (value : Byte → Byte → Value) (a : BusAnswer) (s : State) :
    (s.returnAnswer value a).handle = s.handle := by cases a <;> rfl

@[simp] theorem State.returnAnswer_inFlight (value : Byte → Byte → Value) (a : BusAnswer) (s : State) :
    (s.returnAnswer value a).inFlight = s.inFlight := by cases a <;> rfl

@[simp] theorem State.returnAnswer_sensorMode (value : Byte → Byte → Value) (a : BusAnswer) (s : State) :
    (s.returnAnswer value a).sensorMode = s.sensorMode := by cases a <;> rfl

@[simp] theorem State.returnAnswer_answers (value : Byte → Byte → Value) (a : BusAnswer) (s : State) :
    (s.returnAnswer value a).answers = s.answers := by cases a <;> rfl

@[simp] theorem State.returnAnswer_frames (value : Byte → Byte → Value) (a : BusAnswer) (s : State) :
    (s.returnAnswer value a).frames = s.frames := by cases a <;> rfl

@[simp] theorem State.returnAnswer_script (value : Byte → Byte → Value) (a : BusAnswer) (s : State) :
    (s.returnAnswer value a).script = s.script := by cases a <;> rfl

@[simp] theorem State.returnAnswer_afterScript (value : Byte → Byte → Value) (a : BusAnswer) (s : State) :
    (s.returnAnswer value a).afterScript = s.afterScript := by cases a <;> rfl

@[simp] theorem State.returnAnswer_delivered (value : Byte → Byte → Value) (a : BusAnswer) (s : State) :
    (s.returnAnswer value a).delivered = some (match a with
      | .ok b0 b1 => .ok (value b0 b1)
      | .fail k _ _ => .err (.busError k)) := by cases a <;> rfl

/-! ### `place`: an invocation placed changes the script and the answers alone -/

@[simp] theorem State.place_startUp (i : Instr) (answer : Option (Byte × Byte)) (s : State) :
    (s.place i answer).startUp = s.startUp := rfl

@[simp] theorem State.place_handle (i : Instr) (answer : Option (Byte × Byte)) (s : State) :
    (s.place i answer).handle = s.handle := rfl

@[simp] theorem State.place_inFlight (i : Instr) (answer : Option (Byte × Byte)) (s : State) :
    (s.place i answer).inFlight = s.inFlight := rfl

@[simp] theorem State.place_sensorMode (i : Instr) (answer : Option (Byte × Byte)) (s : State) :
    (s.place i answer).sensorMode = s.sensorMode := rfl

@[simp] theorem State.place_frames (i : Instr) (answer : Option (Byte × Byte)) (s : State) :
    (s.place i answer).frames = s.frames := rfl

@[simp] theorem State.place_delivered (i : Instr) (answer : Option (Byte × Byte)) (s : State) :
    (s.place i answer).delivered = s.delivered := rfl

@[simp] theorem State.place_script (i : Instr) (answer : Option (Byte × Byte)) (s : State) :
    (s.place i answer).script = .invoke i :: s.script := rfl

@[simp] theorem State.place_afterScript (i : Instr) (answer : Option (Byte × Byte)) (s : State) :
    (s.place i answer).afterScript = s.afterScript := rfl

@[simp] theorem State.place_answers_none (i : Instr) (s : State) : (s.place i none).answers = s.answers := rfl

@[simp] theorem State.place_answers_some (i : Instr) (b0 b1 : Byte) (s : State) :
    (s.place i (some (b0, b1))).answers = .ok b0 b1 :: s.answers := rfl

/-! ### The next event: `takeEvent` in each of its four cases, and what it leaves -/

theorem State.takeEvent_of_cons {s : State} {e : Event} {rest : List Event} (h : s.script = e :: rest) :
    s.takeEvent = some (e, { s with script := rest }) := by simp [State.takeEvent, h]

theorem State.takeEvent_of_ends {s : State} (h : s.script = []) (ha : s.afterScript = .ends) :
    s.takeEvent = none := by simp [State.takeEvent, h, ha]

theorem State.takeEvent_of_loops {s : State} {e : Event} {es : List Event} (h : s.script = [])
    (ha : s.afterScript = .loops e es) : s.takeEvent = some (e, { s with script := es }) := by
  simp [State.takeEvent, h, ha]

theorem State.takeEvent_of_drawn {s : State} {n : Nat} (h : s.script = []) (ha : s.afterScript = .drawn n) :
    s.takeEvent = some (Config.freeEvent n, { s with afterScript := .drawn (n + 1) }) := by
  simp [State.takeEvent, h, ha]

theorem State.takeEvent_eq_none {s : State} : s.takeEvent = none ↔ s.script = [] ∧ s.afterScript = .ends := by
  unfold State.takeEvent
  split <;> simp_all

/-- Taking an event changes the program alone. -/
theorem State.takeEvent_frame {s t : State} {e : Event} (h : s.takeEvent = some (e, t)) :
    t.startUp = s.startUp ∧ t.handle = s.handle ∧ t.inFlight = s.inFlight ∧ t.sensorMode = s.sensorMode ∧
      t.answers = s.answers ∧ t.frames = s.frames ∧ t.delivered = s.delivered := by
  unfold State.takeEvent at h
  split at h <;> cases h <;> exact ⟨rfl, rfl, rfl, rfl, rfl, rfl, rfl⟩

/-! ### The answer to the next transaction -/

theorem State.nextAnswer_of_cons {s : State} {a : BusAnswer} {rest : List BusAnswer} (h : s.answers = a :: rest) :
    s.nextAnswer = a := by simp [State.nextAnswer, h]

/-- The next answer depends on the listed answers and the number of transactions driven, and on nothing else. -/
theorem State.nextAnswer_congr {s t : State} (ha : s.answers = t.answers) (hf : s.frames.length = t.frames.length) :
    s.nextAnswer = t.nextAnswer := by simp [State.nextAnswer, State.issued, ha, hf]

end Sys2Proof.Machine
end

