-- ==== Sys2Proof/Laws/Ops.lean ====
section
/-! SUPPORT. What each shared operation can do, said once: later proofs cite these and do not unfold the operations.
-/

namespace Sys2Proof.Machine

/-- The only argument list that is not refused (R57). -/
theorem argumentRefusal_eq_none {a : BusAddress} {bs : List Byte} {n : Nat} :
    argumentRefusal a bs n = none ↔ a = 0x48#7 ∧ bs = [0x00#8] ∧ n = 2 := by
  unfold argumentRefusal
  split_ifs <;> simp_all

/-- A bus operation is not refused exactly on the application's handle with the bus ready (R53, R106, R109). -/
theorem busRefusal_eq_none {s : State} {h : HandleId} : s.busRefusal h = none ↔ h = s.handle.id ∧ s.busReady := by
  unfold State.busRefusal State.handleReady State.busReady
  cases s.sensorMode <;> cases s.handle.ready <;> cases s.inFlight <;> by_cases e : h = s.handle.id <;> simp [e]

/-- Everything a transaction can do when it is not refused: the fixed arguments, on a ready bus, answer with the next answer. -/
theorem busTransact_eq_ok {h : HandleId} {a : BusAddress} {bs : List Byte} {n : Nat} {s : State} {r : BusAnswer × State} :
    busTransact h a bs n s = .ok r ↔
      (a = 0x48#7 ∧ bs = [0x00#8] ∧ n = 2) ∧ (h = s.handle.id ∧ s.busReady) ∧
        r = (s.nextAnswer, s.afterTransaction 0x48#7 0x00#8) := by
  rw [← argumentRefusal_eq_none, ← busRefusal_eq_none]
  unfold busTransact
  split <;> rename_i ha
  · simp [ha]
  · obtain ⟨rfl, rfl, rfl⟩ := argumentRefusal_eq_none.1 ha
    split <;> rename_i hr <;> simp [ha, hr, eq_comm]

/-- A bus operation completes exactly when its transaction was answered, with the answer delivered. -/
theorem finishBus_eq_next {value : Byte → Byte → Value} {x : Except Refusal (BusAnswer × State)} {t : State} :
    finishBus value x = .next t ↔ ∃ a s, x = .ok (a, s) ∧ t = s.returnAnswer value a := by
  rcases x with r | ⟨a, s⟩ <;> simp [finishBus, eq_comm]

/-- Every frame a transaction drives leaves the bus released (R83). -/
theorem released_frameOf (a : BusAddress) (r : Byte) (x : BusAnswer) : released (frameOf a r x) := by
  cases x with
  | ok => exact .inr ⟨rfl, rfl⟩
  | fail _ _ p => cases p <;> first | exact .inl rfl | exact .inr ⟨rfl, rfl⟩

/-- A temperature scaled from a count that fits is in its format. -/
theorem scaled_inFormat {c : Wide} (h : productFits c = true) : (Value.temperature (scaled c)).inFormat := by
  obtain ⟨lo, hi⟩ := (productFits_iff c).1 h
  have := scaled_toInt lo hi
  have := tdiv_cases (c.toInt * 625) 10
  simp only [Value.inFormat]
  omega

theorem decoded_inFormat (w : Word16) : (Value.temperature (decoded w)).inFormat := by
  have := decoded_toInt w
  have := field_toInt_bounds (w.extractLsb' 4 12)
  have := tdiv_cases ((w.extractLsb' 4 12).toInt * 625) 10
  simp only [Value.inFormat]
  omega

theorem field_inFormat (w : Word16) : (Value.field (shiftedOf w) (fieldOf (shiftedOf w))).inFormat := by
  have h : (shiftedOf w).toNat = w.toNat / 16 := by simp [shiftedOf, Nat.shiftRight_eq_div_pow]
  have := w.isLt
  simp only [Value.inFormat, fieldOf, BitVec.extractLsb'_toNat, h]
  omega

theorem count_inFormat (sh : Word16) : (Value.count (count16Of sh) (countOf sh)).inFormat := by
  have := field_toInt_bounds (fieldOf sh)
  simpa only [Value.inFormat, countOf_toInt, count16Of_toInt, true_and]

theorem display_inFormat (T : Wide) : (Value.display (wholeOf T) (remOf T)).inFormat := by
  have := tdiv_cases T.toInt 1000
  have := Int.tmod_add_mul_tdiv T.toInt 1000
  have := wide_toInt_bounds T
  simp only [Value.inFormat, wholeOf_toInt, remOf_toNat]
  omega

/-- Everything `exec` can do when it completes: a pure operation hands out one value in its format; a bus operation, on a ready
bus, performs one transaction and delivers its answer. -/
theorem exec_next_cases {i : Instr} {s t : State} (h : exec i s = .next t) :
    (i.usesBus = false ∧ ∃ v, v.inFormat ∧ t = s.returnOk v) ∨
    (i.usesBus = true ∧ s.busReady ∧ ∃ value : Byte → Byte → Value, (∀ b0 b1, (value b0 b1).inFormat) ∧
      t = (s.afterTransaction 0x48#7 0x00#8).returnAnswer value s.nextAnswer) := by
  cases i with
  | transact g a bs n =>
    obtain ⟨x, u, hx, rfl⟩ := finishBus_eq_next.1 h
    obtain ⟨-, ⟨-, hr⟩, hu⟩ := busTransact_eq_ok.1 hx
    obtain ⟨rfl, rfl⟩ := Prod.mk.inj hu
    exact .inr ⟨rfl, hr, .bytes, fun _ _ => trivial, rfl⟩
  | read g =>
    obtain ⟨x, u, hx, rfl⟩ := finishBus_eq_next.1 h
    obtain ⟨-, ⟨-, hr⟩, hu⟩ := busTransact_eq_ok.1 hx
    obtain ⟨rfl, rfl⟩ := Prod.mk.inj hu
    exact .inr ⟨rfl, hr, _, fun _ _ => decoded_inFormat _, rfl⟩
  | scale c =>
    simp only [exec, execScale] at h
    split at h
    · next hc => exact .inl ⟨rfl, _, scaled_inFormat hc, (Host.Outcome.next.inj h).symm⟩
    · cases h
  | compose b0 b1 => exact .inl ⟨rfl, .word _, trivial, (Host.Outcome.next.inj h).symm⟩
  | extract w => exact .inl ⟨rfl, _, field_inFormat w, (Host.Outcome.next.inj h).symm⟩
  | signext sh => exact .inl ⟨rfl, _, count_inFormat sh, (Host.Outcome.next.inj h).symm⟩
  | decode w => exact .inl ⟨rfl, _, decoded_inFormat w, (Host.Outcome.next.inj h).symm⟩
  | split T => exact .inl ⟨rfl, _, display_inFormat T, (Host.Outcome.next.inj h).symm⟩

/-- `TRANSACT` on a bus that may be used: one transaction, its bytes or its error delivered. -/
theorem exec_transact_of_busReady {s : State} (h : s.busReady) : exec (.transact s.handle.id 0x48#7 [0x00#8] 2) s =
    .next ((s.afterTransaction 0x48#7 0x00#8).returnAnswer .bytes s.nextAnswer) :=
  finishBus_eq_next.2 ⟨_, _, busTransact_eq_ok.2 ⟨⟨rfl, rfl, rfl⟩, ⟨rfl, h⟩, rfl⟩, rfl⟩

/-- `READ` on a bus that may be used: one transaction, the temperature of its bytes or its error delivered. -/
theorem exec_read_of_busReady {s : State} (h : s.busReady) : exec (.read s.handle.id) s =
    .next ((s.afterTransaction 0x48#7 0x00#8).returnAnswer
      (fun b0 b1 => .temperature (decoded (composeWord b0 b1))) s.nextAnswer) :=
  finishBus_eq_next.2 ⟨_, _, busTransact_eq_ok.2 ⟨⟨rfl, rfl, rfl⟩, ⟨rfl, h⟩, rfl⟩, rfl⟩

/-- An admissible operation on a bus that may be used completes. -/
theorem exec_of_admissible {i : Instr} {s : State} (hr : s.busReady) (hi : admissible s.handle.id i) :
    ∃ t, exec i s = .next t := by
  cases i <;> simp only [admissible, Instr.wellFormed, Bool.and_eq_true, beq_iff_eq] at hi
  case transact =>
    obtain ⟨⟨⟨rfl, rfl⟩, rfl⟩, rfl⟩ := hi
    exact ⟨_, exec_transact_of_busReady hr⟩
  case read =>
    obtain ⟨-, rfl⟩ := hi
    exact ⟨_, exec_read_of_busReady hr⟩
  case scale c => exact ⟨_, if_pos ((productFits_iff c).2 hi.2)⟩
  all_goals exact ⟨_, rfl⟩

/-- No operation looks at the program: with another script it ends the same way. -/
theorem exec_withScript {i : Instr} {s t : State} (l : List Event) (h : exec i s = .next t) :
    exec i { s with script := l } = .next { t with script := l } := by
  have bus (value g a bs n) (h : finishBus value (busTransact g a bs n s) = .next t) :
      finishBus value (busTransact g a bs n { s with script := l }) = .next { t with script := l } := by
    obtain ⟨x, u, hx, rfl⟩ := finishBus_eq_next.1 h
    obtain ⟨hargs, hr, hu⟩ := busTransact_eq_ok.1 hx
    obtain ⟨rfl, rfl⟩ := Prod.mk.inj hu
    refine finishBus_eq_next.2 ⟨_, _, busTransact_eq_ok.2 ⟨hargs, hr, rfl⟩, ?_⟩
    show _ = State.returnAnswer value s.nextAnswer _
    cases s.nextAnswer <;> rfl
  cases i with
  | transact => exact bus _ _ _ _ _ h
  | read => exact bus _ _ _ _ _ h
  | scale c =>
    simp only [exec, execScale] at h ⊢
    split at h <;> rename_i hc <;> cases h
    exact if_pos hc
  | compose | extract | signext | decode | split => cases h; rfl

/-- Everything `step` can do when it completes: nothing at the end of the program, else the next event, unless start-up has
failed. -/
theorem step_next_cases {s t : State} (h : step s = .next t) :
    (s.takeEvent = none ∧ t = s) ∨
    ∃ e taken, s.takeEvent = some (e, taken) ∧ (∀ x, s.startUp ≠ .failed x) ∧ onEvent e taken = .next t := by
  unfold step at h
  split at h
  · next hs => exact .inl ⟨hs, (Host.Outcome.next.inj h).symm⟩
  · next e taken hs =>
    split at h
    · cases h
    all_goals
      next hu => exact .inr ⟨e, taken, hs, by simp [hu], h⟩

/-- The step of a run whose start-up has not failed is its next event. -/
theorem step_of_takeEvent {s taken : State} {e : Event} (h : s.takeEvent = some (e, taken))
    (hf : ∀ x, s.startUp ≠ .failed x) : step s = onEvent e taken := by
  simp only [step, h]
  split
  · next x hx => exact absurd hx (hf x)
  all_goals rfl

end Sys2Proof.Machine
end

