-- ==== Sys2Proof/Laws/PerInstr.lean ====
section
/-! SUPPORT. A statement about every operation as syntax: its encoding has the length of its row of the opcode table
(TRANSACT, READ, SCALE and SPLIT four bytes, the others two), whatever its operands. One lemma per constructor.
-/

namespace Sys2Proof.Laws.EncodedLength

/-- The bytes of an operation's row: 31 or 32 bits are four bytes, 16 bits are two (30_encoding.md R50). -/
def rowBytes : Entry → Nat
  | .transact _ | .scale | .read _ | .split => 4
  | .compose | .extract | .signext | .decode => 2

def Statement (i : Instr) : Prop := ∀ answer : Byte × Byte, (encode i answer).length = rowBytes i.entry

theorem transact (h : HandleId) (a : BusAddress) (bs : List Byte) (n : Nat) : Statement (.transact h a bs n) :=
  fun _ => rfl

theorem compose (b0 b1 : Byte) : Statement (.compose b0 b1) := fun _ => rfl

theorem extract (w : Word16) : Statement (.extract w) := fun _ => rfl

theorem signext (sh : Word16) : Statement (.signext sh) := fun _ => rfl

theorem scale (c : Wide) : Statement (.scale c) := fun _ => rfl

theorem decode (w : Word16) : Statement (.decode w) := fun _ => rfl

theorem read (h : HandleId) : Statement (.read h) := fun _ => rfl

theorem split (T : Wide) : Statement (.split T) := fun _ => rfl

end Sys2Proof.Laws.EncodedLength
end

