-- ==== Sys2Proof/Tests/Slice0.lean ====
section
/-! SUPPORT. The model's own tests. Expected results are the worked examples and vectors of 95_test_vectors.md (named in each group) or
written out from the encodings of 30_encoding.md; none is the model's own answer. Then one witness per statement with hypotheses.
-/

namespace Sys2Proof.Machine.Tests

/-- A small state: start-up has succeeded, nothing else has happened. -/
def up : State := State.reset.started

/-- The same, with the answer the bus will give to the next transaction. -/
def answering (a : BusAnswer) : State := { up with answers := [a] }

def timedOut : BusAnswer := .fail ⟨7⟩ .busBusyOrTimeout (.data0 0x19#8)

def h0 : HandleId := ⟨0⟩

/-- What an operation handed out. -/
def handed : Host.Outcome State Fault Refusal → Option Result
  | .next s => s.delivered
  | .fault _ | .refused _ => none

def refusal : Host.Outcome State Fault Refusal → Option Refusal
  | .refused r => some r
  | .next _ | .fault _ => none

def fault : Host.Outcome State Fault Refusal → Option Fault
  | .fault x => some x
  | .next _ | .refused _ => none

def framesAfter : Host.Outcome State Fault Refusal → List (List WireEvent)
  | .next s => s.frames
  | .fault _ | .refused _ => []

/-! ### WellFormed: a term each check refuses (40_bus_transact.md R57) -/

theorem test_wellFormed_fixed_arguments : (Instr.transact h0 0x48#7 [0x00#8] 2).wellFormed = true := by decide
theorem test_wellFormed_refuses_address : (Instr.transact h0 0x49#7 [0x00#8] 2).wellFormed = false := by decide
theorem test_wellFormed_refuses_selector : (Instr.transact h0 0x48#7 [0x01#8] 2).wellFormed = false := by decide
theorem test_wellFormed_refuses_write_length : (Instr.transact h0 0x48#7 [0x00#8, 0x00#8] 2).wellFormed = false := by decide
theorem test_wellFormed_refuses_read_length : (Instr.transact h0 0x48#7 [0x00#8] 3).wellFormed = false := by decide

/-! ### Decode: operands written out from the patterns of the opcode table (R50) -/

theorem test_decode_transact : decode (.transact h0) [0b01001000#8, 0b00000000#8, 0b11111110#8, 0b10000000#8] =
    .invocation (.transact h0 0x48#7 [0x00#8] 2) (some (0xFE#8, 0x80#8)) := by decide
theorem test_decode_compose : decode .compose [0b11111110#8, 0b10000000#8] =
    .invocation (.compose 0xFE#8 0x80#8) none := by decide
theorem test_decode_extract : decode .extract [0b11111110#8, 0b10000000#8] = .invocation (.extract 0xFE80#16) none := by decide
theorem test_decode_signext : decode .signext [0b00001111#8, 0b11101000#8] = .invocation (.signext 0x0FE8#16) none := by decide
theorem test_decode_scale : decode .scale [0b11111111#8, 0b11111111#8, 0b11111111#8, 0b11101000#8] =
    .invocation (.scale 0xFFFFFFE8#32) none := by decide
theorem test_decode_decode : decode .decode [0b11111110#8, 0b10001111#8] = .invocation (.decode 0xFE8F#16) none := by decide
theorem test_decode_read : decode (.read h0) [0b01001000#8, 0b00000000#8, 0b00011001#8, 0b00000000#8] =
    .invocation (.read h0) (some (0x19#8, 0x00#8)) := by decide
theorem test_decode_split : decode .split [0b00000000#8, 0b00000000#8, 0b01100001#8, 0b10101000#8] =
    .invocation (.split 25000#32) none := by decide

theorem test_decode_rejects_length : decode .decode [0x19#8] = .rejected (.wrongLength 1 2) := by decide
theorem test_decode_rejects_top_bit : decode (.read h0) [0xC8#8, 0x00#8, 0x19#8, 0x00#8] = .rejected .addressTooWide := by decide
theorem test_decode_rejects_address : decode (.read h0) [0x49#8, 0x00#8, 0x19#8, 0x00#8] =
    .rejected (.wrongAddress 0x49#7) := by decide
theorem test_decode_rejects_register : decode (.transact h0) [0x48#8, 0x01#8, 0x19#8, 0x00#8] =
    .rejected (.wrongRegister 0x01#8) := by decide

/-! ### Operation results (95_test_vectors.md sections 2.1 to 2.8) -/

theorem test_transact_ok : handed (exec (.transact h0 0x48#7 [0x00#8] 2) (answering (.ok 0x19#8 0x00#8))) =
    some (.ok (.bytes 0x19#8 0x00#8)) := by decide
theorem test_transact_err_after_first_byte : handed (exec (.transact h0 0x48#7 [0x00#8] 2) (answering timedOut)) =
    some (.err (.busError ⟨7⟩)) := by decide
theorem test_compose_no_sign_extension : handed (exec (.compose 0x00#8 0x80#8) .reset) = some (.ok (.word 0x0080#16)) := by decide
theorem test_compose_first_byte_high : handed (exec (.compose 0x12#8 0x34#8) .reset) = some (.ok (.word 0x1234#16)) := by decide
theorem test_extract_negative : handed (exec (.extract 0xE700#16) .reset) =
    some (.ok (.field 0x0E70#16 0xE70#12)) := by decide
theorem test_extract_shift_is_four : handed (exec (.extract 0x1234#16) .reset) =
    some (.ok (.field 0x0123#16 0x123#12)) := by decide
theorem test_signext_negative : handed (exec (.signext 0x0E70#16) .reset) =
    some (.ok (.count 0xFE70#16 0xFFFFFE70#32)) := by decide
theorem test_signext_ignores_high_bits : handed (exec (.signext 0x1000#16) .reset) =
    some (.ok (.count 0x0000#16 0x00000000#32)) := by decide
theorem test_scale_odd_negative : handed (exec (.scale 0xFFFFFFFF#32) .reset) =
    some (.ok (.temperature 0xFFFFFFC2#32)) := by decide
theorem test_scale_greatest : handed (exec (.scale 2047#32) .reset) = some (.ok (.temperature 0x0001F3C1#32)) := by decide
theorem test_scale_refuses_wide_product : refusal (exec (.scale 3435974#32) .reset) =
    some (.scaleProductTooWide 3435974#32) := by decide
theorem test_decode_least : handed (exec (.decode 0x800F#16) .reset) = some (.ok (.temperature 0xFFFE0C00#32)) := by decide
theorem test_decode_negative : handed (exec (.decode 0xAAAA#16) .reset) =
    some (.ok (.temperature (BitVec.ofInt 32 (-85375)))) := by decide
theorem test_read_negative : handed (exec (.read h0) (answering (.ok 0xE7#8 0x00#8))) =
    some (.ok (.temperature (BitVec.ofInt 32 (-25000)))) := by decide
theorem test_read_passes_the_error_on : handed (exec (.read h0) (answering timedOut)) =
    some (.err (.busError ⟨7⟩)) := by decide
theorem test_split_truncates : handed (exec (.split (BitVec.ofInt 32 (-1500))) .reset) =
    some (.ok (.display (BitVec.ofInt 32 (-1)) 500#10)) := by decide
theorem test_split_loses_the_sign : handed (exec (.split (BitVec.ofInt 32 (-62))) .reset) =
    some (.ok (.display 0#32 62#10)) := by decide

/-! ### The frame (30_encoding.md R46; 95_test_vectors.md P1 step 1, wire column) -/

theorem test_frame_of_a_read : framesAfter (exec (.read h0) (answering (.ok 0x19#8 0x00#8))) =
    [[.start, .address 0x48#7 .write, .register 0x00#8, .restart, .address 0x48#7 .read, .data 0x19#8 true,
      .data 0x00#8 false, .stop]] := by decide

/-! ### Refusals and faults (95_test_vectors.md P5, section 2.1, section 2.7) -/

theorem test_refused_not_ready : refusal (exec (.read h0) .reset) = some (.handleNotReady h0) := by decide
theorem test_refused_overlap : refusal (exec (.read h0) { up with inFlight := true }) =
    some .overlappingTransaction := by decide
theorem test_refused_other_mode : refusal (exec (.read h0) { up with sensorMode := .extended }) =
    some .sensorModeNotCovered := by decide
theorem test_refused_selector : refusal (exec (.transact h0 0x48#7 [0x01#8] 2) up) =
    some (.transactWriteBytes [0x01#8]) := by decide
theorem test_fault_before_any_result : fault (step { up with script := [.readPort .tempMdeg] }) =
    some (.outputHasNoValue .tempMdeg) := by decide
theorem test_fault_after_an_error :
    fault (step { up with delivered := some (.err (.busError ⟨1⟩)), script := [.readPort .whole] }) =
      some (.outputHasNoValue .whole) := by decide

/-! ### Start-up (95_test_vectors.md P4) and a placed table word -/

def startUpAfter : Host.Outcome State Fault Refusal → Option (StartUp × Bool)
  | .next s => some (s.startUp, s.handle.ready)
  | .fault _ | .refused _ => none

theorem test_startUp_not_ready : startUpAfter (step { State.reset with script := [.isReady false] }) =
    some (.failed .deviceNotReady, false) := by decide
theorem test_startUp_rejected :
    startUpAfter (step { State.reset with startUp := .checked, script := [.configure .controller 100000 false] }) =
      some (.failed .configurationError, false) := by decide
theorem test_startUp_accepted :
    startUpAfter (step { State.reset with startUp := .checked, script := [.configure .controller 100000 true] }) =
      some (.up, true) := by decide
theorem test_placed_read : handed (step (State.reset.withFetchWord 32 0x48003200)) =
    some (.ok (.temperature 50000#32)) := by decide
theorem test_placed_decode : handed (step (State.reset.withFetchWord 16 0x1BC0)) =
    some (.ok (.temperature 27750#32)) := by decide

/-! ### A program that does not end (10_state.md R11; 70_reset_and_hazards.md R115) -/

theorem test_loop_begins_again : handed (step { answering (.ok 0xE7#8 0x00#8) with afterScript := .loops (.invoke (.read h0)) [.rest] }) =
    some (.ok (.temperature (BitVec.ofInt 32 (-25000)))) := by decide

/-! ### Witnesses: a state and operands that meet all hypotheses of a statement together -/

theorem up_busReady : up.busReady := ⟨rfl, rfl, rfl⟩
theorem answering_busReady (a : BusAnswer) : (answering a).busReady := ⟨rfl, rfl, rfl⟩
theorem up_notFailed : ∀ e, up.startUp ≠ .failed e := by intro e h; cases h
theorem cold_notFailed : ∀ e, State.reset.startUp ≠ .failed e := by intro e h; cases h

theorem witness_DecodeOfEncodeGivesTheOperation : (Instr.transact h0 0x48#7 [0x00#8] 2).wellFormed = true := by decide
theorem witness_EncodeOfDecodeGivesTheBytes : decode (.read h0) [0x48#8, 0x00#8, 0xFF#8, 0xFF#8] =
    .invocation (.read h0) (some (0xFF#8, 0xFF#8)) := by decide
theorem witness_OnlyFixedBitsAreRejected_accepts : ∃ i, decode (.transact h0) [0x48#8, 0x00#8, 0x00#8, 0xFF#8] =
    .invocation i (some (0x00#8, 0xFF#8)) := ⟨_, rfl⟩
theorem witness_OnlyFixedBitsAreRejected_rejects : ∃ x, decode (.read h0) [0x48#8, 0xFF#8, 0x00#8, 0x00#8] =
    .rejected x := ⟨_, rfl⟩
theorem witness_OnlyFixedBitsAreRejected_padding : (0xC8#8).getLsbD 7 = true ∧ (0xC8#8).extractLsb' 0 7 = 0x48#7 := by decide
theorem witness_OnlyFixedBitsAreRejected_lengths : ([] : List Byte).length ≠ 2 ∧ [0#8, 0#8, 0#8].length ≠ 2 ∧
    [0#8, 0#8, 0#8].length ≠ 4 ∧ [0#8, 0#8, 0#8, 0#8, 0#8].length ≠ 4 := by decide
theorem reset_inv : Inv State.reset where
  readyIffUp := by decide
  busReleased := by simp [State.reset]
  valueInFormat := by simp [State.reset]
  errorIsBusError := by simp [State.reset]
  startUpError := by simp [State.reset]
theorem witness_EveryStepKeepsTheInvariant :
    ∃ s t, Inv s ∧ s.script = [.isReady true] ∧ step s = .next t :=
  ⟨{ State.reset with script := [.isReady true] }, _,
    ⟨reset_inv.1, reset_inv.2, reset_inv.3, reset_inv.4, reset_inv.5⟩, rfl, rfl⟩
theorem witness_StepRunsTheInvokedOperation :
    ∃ s : State, s.script = [.invoke (.split 0#32)] ∧ ∀ e, s.startUp ≠ .failed e :=
  ⟨{ up with script := [.invoke (.split 0#32)] }, rfl, up_notFailed⟩
theorem witness_StepRunsTheInvokedOperation_final : State.reset.script = [] ∧ State.reset.afterScript = .ends := ⟨rfl, rfl⟩
theorem witness_StepRunsTheInvokedOperation_forever : ∃ s t : State, s.script = [] ∧ s.afterScript = .loops .rest [] ∧
    t.script = [] ∧ t.afterScript = .drawn 0 :=
  ⟨{ up with afterScript := .loops .rest [] }, { up with afterScript := .drawn 0 }, rfl, rfl, rfl, rfl⟩
theorem witness_PlacedTableWordIsRunNext_read : decodeTableWord 32 0x4800FFFF = some (.read h0) := by decide
theorem witness_PlacedTableWordIsRunNext_decode : decodeTableWord 16 0xFFFF = some (.decode 0xFFFF#16) := by decide
theorem witness_PlacedTableWordIsRunNext_split : decodeTableWord 32 0x47FFFFFF = some (.split 0x47FFFFFF#32) := by decide
theorem witness_SignextReadsTheLowTwelveBits : (0x0FFF#16).toNat ≤ 0x0FFF := by decide
theorem witness_ScaleMultipliesThenTruncates_greatest :
    -3435973 ≤ (3435973#32).toInt ∧ (3435973#32).toInt ≤ 3435973 := by decide
theorem witness_ScaleMultipliesThenTruncates_least :
    -3435973 ≤ (BitVec.ofInt 32 (-3435973)).toInt ∧ (BitVec.ofInt 32 (-3435973)).toInt ≤ 3435973 := by decide
theorem witness_ScaleMultipliesThenTruncates_above : 3435973 < (3435974#32).toInt := by decide
theorem witness_ScaleMultipliesThenTruncates_below : (BitVec.ofInt 32 (-3435974)).toInt < -3435973 := by decide
theorem witness_TransactReturnsTheAnswer : (answering (.ok 0xFF#8 0xFF#8)).busReady := answering_busReady _
theorem witness_ReadReturnsTheDecodedAnswer : (answering timedOut).busReady := answering_busReady _
theorem witness_ReadPassesTheErrorOn : ∃ s : State, s.busReady ∧ s.nextAnswer = .fail ⟨7⟩ .busBusyOrTimeout (.data0 0x19#8) :=
  ⟨answering (.fail ⟨7⟩ .busBusyOrTimeout (.data0 0x19#8)), answering_busReady _, rfl⟩
theorem witness_FrameFollowsTheWireSequence : ∃ s : State, s.busReady ∧ s.nextAnswer = .ok 0x19#8 0x00#8 :=
  ⟨answering (.ok 0x19#8 0x00#8), answering_busReady _, rfl⟩
theorem witness_BrokenFrameReleasesTheBus (p : FrameProgress) : ∃ s : State, s.busReady ∧
    s.nextAnswer = .fail ⟨7⟩ .arbitrationLoss p := ⟨answering (.fail ⟨7⟩ .arbitrationLoss p), answering_busReady _, rfl⟩
theorem witness_BrokenFrameReleasesTheBus_nothing :
    framesAfter (exec (.read h0) (answering (.fail ⟨7⟩ .busBusyOrTimeout .nothing))) = [[]] := by decide
theorem witness_BrokenFrameReleasesTheBus_data1 :
    framesAfter (exec (.read h0) (answering (.fail ⟨7⟩ .controllerFault (.data1 0x19#8 0xFF#8)))) =
      [[.start, .address 0x48#7 .write, .register 0x00#8, .restart, .address 0x48#7 .read, .data 0x19#8 true,
        .data 0xFF#8 false, .stop]] := by decide
theorem witness_TransactRefusesOtherArguments :
    0x49#7 ≠ 0x48#7 ∧ ([] : List Byte) ≠ [0x00#8] ∧ [0x00#8, 0x00#8] ≠ [0x00#8] ∧ 1 ≠ 2 ∧ 3 ≠ 2 := by decide
theorem witness_BusOperationsNeedAReadyBus_ready : h0 = up.handle.id ∧ up.busReady := ⟨rfl, up_busReady⟩
theorem witness_BusOperationsNeedAReadyBus_notReady : State.reset.handle.ready = false := rfl
theorem witness_BusOperationsNeedAReadyBus_otherHandle : (⟨1⟩ : HandleId) ≠ up.handle.id := by decide
theorem witness_BusOperationsNeedAReadyBus_overlap :
    ∃ s : State, h0 = s.handle.id ∧ s.handle.ready = true ∧ s.inFlight = true := ⟨{ up with inFlight := true }, rfl, rfl, rfl⟩
theorem witness_BusOperationsNeedAReadyBus_mode :
    ∃ s : State, h0 = s.handle.id ∧ s.handle.ready = true ∧ s.inFlight = false ∧ s.sensorMode = .extended :=
  ⟨{ up with sensorMode := .extended }, rfl, rfl, rfl, rfl⟩
theorem witness_SecondTransactionInFlightIsRefused :
    ∃ s t : State, s.script = [.otherBegins] ∧ s.inFlight = true ∧ t.script = [.otherBegins] ∧ t.inFlight = false ∧
      (∀ e, s.startUp ≠ .failed e) ∧ ∀ e, t.startUp ≠ .failed e :=
  ⟨{ up with inFlight := true, script := [.otherBegins] }, { up with script := [.otherBegins] }, rfl, rfl, rfl, rfl,
    up_notFailed, up_notFailed⟩
theorem witness_StartUpGoesThreeWays_isReady : ∃ s t : State,
    s.startUp = .cold ∧ s.script = [.isReady false] ∧ t.startUp = .cold ∧ t.script = [.isReady true] :=
  ⟨{ State.reset with script := [.isReady false] }, { State.reset with script := [.isReady true] }, rfl, rfl, rfl, rfl⟩
theorem witness_StartUpGoesThreeWays_configure : ∃ s t : State,
    s.startUp = .checked ∧ s.script = [.configure .controller 100000 false] ∧
    t.startUp = .checked ∧ t.script = [.configure .controller 100000 true] :=
  ⟨{ State.reset with startUp := .checked, script := [.configure .controller 100000 false] },
    { State.reset with startUp := .checked, script := [.configure .controller 100000 true] }, rfl, rfl, rfl, rfl⟩
theorem witness_StartUpOutOfOrderIsRefused_isReady : ∃ s : State,
    (∀ e, s.startUp ≠ .failed e) ∧ s.startUp ≠ .cold ∧ s.script = [.isReady true] :=
  ⟨{ up with script := [.isReady true] }, up_notFailed, by decide, rfl⟩
theorem witness_StartUpOutOfOrderIsRefused_configure : ∃ s : State,
    (∀ e, s.startUp ≠ .failed e) ∧ s.startUp ≠ .checked ∧ s.script = [.configure .controller 100000 true] :=
  ⟨{ State.reset with script := [.configure .controller 100000 true] }, cold_notFailed, by decide, rfl⟩
theorem witness_StartUpOutOfOrderIsRefused_arguments : ∃ s : State,
    (∀ e, s.startUp ≠ .failed e) ∧ ¬(BusRole.controller = .controller ∧ 400000 = 100000) ∧
      s.script = [.configure .controller 400000 true] :=
  ⟨{ State.reset with script := [.configure .controller 400000 true] }, cold_notFailed, by decide, rfl⟩
theorem witness_OnlyStartUpMakesTheHandleReady : ∃ s t : State,
    step s = .next t ∧ s.handle.ready = false ∧ t.handle.ready = true :=
  ⟨{ State.reset with startUp := .checked, script := [.configure .controller 100000 true] }, _, rfl, rfl, rfl⟩
theorem witness_FatalStartUpErrorEndsTheRun : ∃ s : State,
    s.startUp = .failed .deviceNotReady ∧ s.script ≠ [] ∧ core.run 0 s = .next s :=
  ⟨{ State.reset with startUp := .failed .deviceNotReady, script := [.invoke (.read h0)] }, rfl, by decide, rfl⟩
theorem witness_FatalStartUpErrorEndsTheRun_loop : ∃ s : State,
    s.startUp = .failed .configurationError ∧ s.script = [] ∧ s.afterScript ≠ .ends :=
  ⟨{ State.reset with startUp := .failed .configurationError, afterScript := .loops .rest [] }, rfl, rfl, by decide⟩
theorem witness_PortsAfterARead : (answering (.ok 0x19#8 0x00#8)).busReady ∧ (answering timedOut).busReady :=
  ⟨answering_busReady _, answering_busReady _⟩
theorem witness_ReadingAPortWithoutValueFaults_none : ∃ s : State,
    s.script = [.readPort .ok] ∧ (∀ e, s.startUp ≠ .failed e) ∧ s.delivered = none :=
  ⟨{ up with script := [.readPort .ok] }, rfl, up_notFailed, rfl⟩
theorem witness_ReadingAPortWithoutValueFaults_err : ∃ s : State,
    s.script = [.readPort .rem] ∧ (∀ e, s.startUp ≠ .failed e) ∧ s.delivered = some (.err (.busError ⟨0⟩)) :=
  ⟨{ up with delivered := some (.err (.busError ⟨0⟩)), script := [.readPort .rem] }, rfl, up_notFailed, rfl⟩
theorem witness_ReadingAPortWithoutValueFaults_ok : ∃ s t : State,
    s.script = [.readPort .errCode] ∧ s.delivered = some (.ok (.word 0#16)) ∧ (∀ e, s.startUp ≠ .failed e) ∧
    t.script = [.readPort .tempMdeg] ∧ t.port .tempMdeg = some (.wide 62#32) ∧ (∀ e, t.startUp ≠ .failed e) :=
  ⟨{ up with delivered := some (.ok (.word 0#16)), script := [.readPort .errCode] },
    { up with delivered := some (.ok (.temperature 62#32)), script := [.readPort .tempMdeg] },
    rfl, rfl, up_notFailed, rfl, rfl, up_notFailed⟩
/-- The four outcomes without a value at the value ports, at each of the three, and a SPLIT's at temp_mdeg. -/
theorem witness_ReadingAPortWithoutValueFaults_noValue (v : Value) (p : Port) : ∃ s : State,
    s.script = [.readPort p] ∧ (∀ e, s.startUp ≠ .failed e) ∧ s.delivered = some (.ok v) :=
  ⟨{ up with delivered := some (.ok v), script := [.readPort p] }, rfl, up_notFailed, rfl⟩
theorem witness_PortsAfterEachOperation_pure : ∃ t : State, (Instr.split 1#32).usesBus = false ∧
    exec (.split 1#32) State.reset = .next t := ⟨_, rfl, rfl⟩
theorem witness_PortsAfterEachOperation_scale : (-3435973 : Int) ≤ (3435973#32).toInt ∧ (3435973#32).toInt ≤ 3435973 ∧
    -3435973 ≤ (BitVec.ofInt 32 (-3435973)).toInt := by decide
theorem witness_PortsAfterEachOperation_transact (a : BusAnswer) : (answering a).busReady := answering_busReady _
theorem witness_EnvironmentEventsChangeTheirOwnField : ∃ s t u : State,
    s.script = [.rest] ∧ t.script = [.otherEnds] ∧ u.script = [.sensorIn .extended] ∧
    (∀ e, s.startUp ≠ .failed e) ∧ (∀ e, t.startUp ≠ .failed e) ∧ ∀ e, u.startUp ≠ .failed e :=
  ⟨{ up with script := [.rest] }, { up with script := [.otherEnds] }, { up with script := [.sensorIn .extended] },
    rfl, rfl, rfl, up_notFailed, up_notFailed, up_notFailed⟩
theorem witness_CountClosedFormsAgree : returns (.compose 0x80#8 0x0F#8) up (.word 0x800F#16) := by
  show execCompose 0x80#8 0x0F#8 up = _
  rw [execCompose, show composeWord 0x80#8 0x0F#8 = 0x800F#16 from by decide]; rfl
theorem witness_LowFourBitsAreIgnored :
    ∃ c16 c, returns (.signext (0x8001#16 >>> 4)) up (.count c16 c) := ⟨_, _, rfl⟩
theorem witness_FieldToCountIsABijection :
    ∃ c16 c d16 d, returns (.signext ((0x7FF#12).setWidth 16)) up (.count c16 c) ∧
      returns (.signext ((0x800#12).setWidth 16)) up (.count d16 d) := ⟨_, _, _, _, rfl, rfl⟩
theorem witness_counts_at_both_ends : -2048 ≤ (BitVec.ofInt 32 (-2048)).toInt ∧ (2047#32).toInt ≤ 2047 ∧
    -2047 ≤ (BitVec.ofInt 32 (-2047)).toInt := by decide
/-- The hypotheses of ScaleTruncatesTowardZero, ScaleEquivalentFormsAgree and ScaleDoesNotDependOnTheWidth, at an odd negative count. -/
theorem witness_ScaleTruncatesTowardZero : -2048 ≤ (0xFFFFFFFF#32).toInt ∧ (0xFFFFFFFF#32).toInt ≤ 2047 ∧
    (0xFFFFFFFF#32).toInt % 2 = 1 ∧ (0xFFFFFFFF#32).toInt < 0 := by decide
theorem witness_ScaleEquivalentFormsAgree : -2048 ≤ (1#32).toInt ∧ (1#32).toInt ≤ 2047 := by decide
theorem witness_ScaleDoesNotDependOnTheWidth : -2048 ≤ (53#32).toInt ∧ (53#32).toInt ≤ 2047 ∧ 22 ≤ 22 := by decide
theorem witness_scale_returns {c : Wide} (h : productFits c = true) (s : State) :
    returns (.scale c) s (.temperature (scaled c)) := by
  show execScale c s = _
  rw [execScale, if_pos h]; rfl
theorem witness_ScaleIsStrictlyIncreasing : ∃ T U : Wide,
    -2048 ≤ (0xFFFFFFFF#32).toInt ∧ (0xFFFFFFFF#32).toInt < (1#32).toInt ∧ (1#32).toInt ≤ 2047 ∧
    returns (.scale 0xFFFFFFFF#32) up (.temperature T) ∧ returns (.scale 1#32) up (.temperature U) :=
  ⟨_, _, by decide, by decide, by decide, witness_scale_returns (by decide) up, witness_scale_returns (by decide) up⟩
theorem witness_ScaleIsSymmetric : -2047 ≤ (BitVec.ofInt 32 (-2047)).toInt ∧ (2047#32).toInt ≤ 2047 := by decide
theorem witness_SplitCanBeRebuilt : ∃ T whole rem, returns (.decode 0x8000#16) up (.temperature T) ∧
    returns (.split T) up (.display whole rem) := ⟨_, _, _, rfl, rfl⟩
theorem witness_SplitLosesTheSignBelowOneDegree_pair :
    -999 ≤ (BitVec.ofInt 32 (-999)).toInt ∧ (BitVec.ofInt 32 (-1)).toInt ≤ -1 := by decide
theorem witness_SplitLosesTheSignBelowOneDegree_count : ∃ T whole rem,
    -2048 ≤ (BitVec.ofInt 32 (-15)).toInt ∧ (BitVec.ofInt 32 (-15)).toInt ≤ 2047 ∧
    returns (.scale (BitVec.ofInt 32 (-15))) up (.temperature T) ∧ returns (.split T) up (.display whole rem) :=
  ⟨_, _, _, by decide, by decide, witness_scale_returns (by decide) up, rfl⟩
theorem witness_ReadIsTransactThenDecode_ok : ∃ s t : State,
    exec (.transact s.handle.id 0x48#7 [0x00#8] 2) s = .next t ∧ t.delivered = some (.ok (.bytes 0xFE#8 0x80#8)) :=
  ⟨answering (.ok 0xFE#8 0x80#8), _, rfl, rfl⟩
theorem witness_ReadIsTransactThenDecode_err : ∃ s t : State,
    exec (.transact s.handle.id 0x48#7 [0x00#8] 2) s = .next t ∧ t.delivered = some (.err (.busError ⟨7⟩)) :=
  ⟨answering timedOut, _, rfl, rfl⟩
theorem witness_PureOperationsIgnoreTheState : (Instr.scale 1#32).usesBus = false := rfl
theorem witness_PureOperationsIgnoreTheState_read : ∃ s s' : State, s ≠ s' ∧ s.busReady ∧ s'.busReady ∧
    s.handle.id = s'.handle.id ∧ s.nextAnswer = s'.nextAnswer :=
  ⟨answering timedOut, { answering timedOut with delivered := some (.ok (.word 0#16)) }, by decide,
    answering_busReady _, ⟨rfl, rfl, rfl⟩, rfl, rfl⟩
theorem witness_OperationsChangeNothingElse : ∃ t u : State, exec (.split 0#32) up = .next t ∧
    exec (.read h0) (answering timedOut) = .next u := ⟨_, _, rfl, rfl⟩
theorem witness_OnlyTheBusReportsErrors : ∃ t : State, exec (.read h0) (answering timedOut) = .next t ∧
    t.delivered = some (.err (.busError ⟨7⟩)) := ⟨_, rfl, rfl⟩
theorem witness_ErrorCodesAreCopiedUnseen : ∃ t : State, (Instr.read h0).usesBus = true ∧
    exec (.read h0) { up with answers := [.fail ⟨0⟩ .noAcknowledgment .addressWrite] } = .next t := ⟨_, rfl, rfl⟩
theorem witness_EarlierOperationsAreInvisible_drawn : ∃ (s : State) (driven : List (List WireEvent)),
    s.answers = [] ∧ driven ≠ s.frames ∧ driven.length = s.frames.length :=
  ⟨{ up with frames := [[.start, .stop]] }, [[]], rfl, by decide, rfl⟩
theorem witness_EarlierOperationsAreInvisible_listed : ∃ (s : State) (driven : List (List WireEvent)),
    s.answers ≠ [] ∧ driven.length ≠ s.frames.length := ⟨answering timedOut, [[]], by decide, by decide⟩
theorem witness_NthReadDependsOnItsOwnAnswer : ∃ s : State, s.busReady ∧ (∀ e, s.startUp ≠ .failed e) ∧
    s.answers = [timedOut] ++ .ok 0xE7#8 0x00#8 :: [] ∧
    s.script = List.replicate (1 + 1) (.invoke (.read s.handle.id)) ++ [] :=
  ⟨{ up with answers := [timedOut, .ok 0xE7#8 0x00#8], script := [.invoke (.read h0), .invoke (.read h0)] },
    ⟨rfl, rfl, rfl⟩, up_notFailed, rfl, rfl⟩
theorem witness_AdmissibleRunsNeverStop : ∃ (s : State) (ops : List Instr), s.busReady ∧ (∀ e, s.startUp ≠ .failed e) ∧
    ops = [.read h0, .scale 3435973#32] ∧ (∀ i ∈ ops, admissible s.handle.id i) ∧ s.script = ops.map .invoke ∧
    s.afterScript = .ends := by
  refine ⟨{ up with script := [.invoke (.read h0), .invoke (.scale 3435973#32)] }, _, ⟨rfl, rfl, rfl⟩, up_notFailed, rfl, ?_, rfl, rfl⟩
  simp only [List.mem_cons, List.not_mem_nil, or_false, forall_eq_or_imp, forall_eq, admissible]
  decide
/-- A split, then a read and a transaction for ever. -/
def polling : State :=
  { up with
    script := [.invoke (.split 0#32)]
    afterScript := .loops (.invoke (.read h0)) [.invoke (.transact h0 0x48#7 [0x00#8] 2)] }
theorem witness_AdmissibleStepsKeepRunning : Running polling where
  busReady := ⟨rfl, rfl, rfl⟩
  notFailed := up_notFailed
  script := by simp [polling, Event.admissible, admissible, Instr.wellFormed]
  after := .inr ⟨_, _, rfl, by simp [polling, Event.admissible, admissible, Instr.wellFormed, up, h0, State.reset, State.started]⟩
theorem witness_PollingLoopNeverEnds : ∃ s : State, s.busReady ∧ (∀ e, s.startUp ≠ .failed e) ∧ s.script = [] ∧
    s.afterScript = .loops (.invoke (.read s.handle.id)) [] :=
  ⟨{ up with afterScript := .loops (.invoke (.read h0)) [] }, ⟨rfl, rfl, rfl⟩, up_notFailed, rfl, rfl⟩
/-- A program of R11 that never repeats: a read, then the split of each number in turn. -/
theorem witness_InfiniteProgramsHaveARun : ∃ program : Nat → Instr, program 0 = .read h0 ∧
    program 1 ≠ program 2 ∧ ∀ k, admissible up.handle.id (program k) :=
  ⟨fun k => if k = 0 then .read h0 else .split (BitVec.ofNat 32 k), rfl, by decide, fun k => by
    by_cases h : k = 0 <;> simp [h, admissible, Instr.wellFormed, up, h0, State.reset, State.started]⟩

end Sys2Proof.Machine.Tests
end

section
/-! SUPPORT. What the pure operations and `READ` depend on (00_scope.md section 7, R8).
-/

namespace Sys2Proof.Machine

/-- What a pure operation does is settled by its operands before any state is given (R8): it returns one value in every
state, or it is refused by one name in every state. Only `SCALE` can be refused (R70 corner case g). -/
theorem exec_pure_uniform {i : Instr} (h : i.usesBus = false) :
    (∃ v, ∀ s, returns i s v) ∨ (∃ r, ∀ s, exec i s = .refused r) := by
  cases i with
  | transact | read => cases h
  | scale c =>
    by_cases hc : productFits c = true
    · exact .inl ⟨.temperature (scaled c), fun _ => if_pos hc⟩
    · exact .inr ⟨.scaleProductTooWide c, fun _ => if_neg hc⟩
  | compose b0 b1 => exact .inl ⟨.word (composeWord b0 b1), fun _ => rfl⟩
  | extract w => exact .inl ⟨.field (shiftedOf w) (fieldOf (shiftedOf w)), fun _ => rfl⟩
  | signext sh => exact .inl ⟨.count (count16Of sh) (countOf sh), fun _ => rfl⟩
  | decode w => exact .inl ⟨.temperature (decoded w), fun _ => rfl⟩
  | split T => exact .inl ⟨.display (wholeOf T) (remOf T), fun _ => rfl⟩

/-- On a bus that may be used, `READ` hands out the same in any two states with the same handle and next answer (R8). -/
theorem exec_read_delivered_congr {s s' : State} (hr : s.busReady) (hr' : s'.busReady)
    (hid : s.handle.id = s'.handle.id) (hans : s.nextAnswer = s'.nextAnswer) :
    ∃ t t' : State, exec (.read s.handle.id) s = .next t ∧ exec (.read s.handle.id) s' = .next t' ∧
      t.delivered = t'.delivered := by
  refine ⟨_, _, exec_read_of_busReady hr, hid ▸ exec_read_of_busReady hr', ?_⟩
  rw [State.returnAnswer_delivered, State.returnAnswer_delivered, hans]

/-- Settles O46: the outcome of a pure operation is uniform in the state, and what `READ` delivers is made of its answer. -/
theorem pureOperationsIgnoreTheState : Obligations.PureOperationsIgnoreTheState := by
  refine ⟨fun i s s' h => ?_, fun _ _ => exec_read_delivered_congr⟩
  obtain ⟨v, hv⟩ | ⟨r, hr⟩ := exec_pure_uniform h
  · exact .inl ⟨v, hv s, hv s'⟩
  · exact .inr ⟨r, hr s, hr s'⟩

end Sys2Proof.Machine
end

section
/-! SUPPORT. Runs of many steps, and what every operation leaves unchanged (10_state.md R10, R11, R60).
-/

namespace Sys2Proof.Machine

/-- A step is the script's first event, in the state with that event taken off. -/
theorem step_of_script {s : State} {e : Event} {rest : List Event} (hs : s.script = e :: rest)
    (hf : ∀ x, s.startUp ≠ .failed x) : step s = onEvent e { s with script := rest } :=
  step_of_takeEvent (State.takeEvent_of_cons hs) hf

/-- A run of one step more completes exactly when its first step does, and the run from there. -/
theorem core_run_succ_eq_next {s t : State} {n : Nat} :
    core.run (n + 1) s = .next t ↔ ∃ u : State, step s = .next u ∧ core.run n u = .next t := by
  have hstep : core.step s = step s := rfl
  cases hs : step s <;> simp [Host.Core.run, hstep, hs]

/-- A run that has not stopped goes on with one step more. -/
theorem core_run_succ_of_next {s t u : State} {n : Nat} (hrun : core.run n s = .next t) (hstep : step t = .next u) :
    core.run (n + 1) s = .next u := by
  induction n generalizing s with
  | zero =>
    obtain rfl : s = t := Host.Outcome.next.inj hrun
    exact core_run_succ_eq_next.2 ⟨u, hstep, rfl⟩
  | succ n ih =>
    obtain ⟨v, hv, hrest⟩ := core_run_succ_eq_next.1 hrun
    exact core_run_succ_eq_next.2 ⟨v, hv, ih hrest⟩

theorem State.withScript_nil {s : State} (h : s.script = []) : { s with script := [] } = s := by rw [← h]

/-- An operation that completes leaves the agents around the unit, and their program, as they were. -/
theorem exec_next_frame {i : Instr} {s t : State} (h : exec i s = .next t) :
    t.startUp = s.startUp ∧ t.handle = s.handle ∧ t.inFlight = s.inFlight ∧ t.sensorMode = s.sensorMode ∧
      t.script = s.script ∧ t.afterScript = s.afterScript := by
  obtain ⟨-, v, -, rfl⟩ | ⟨-, -, value, -, rfl⟩ := exec_next_cases h
  · simp
  · simp

end Sys2Proof.Machine
end

section
/-! SUPPORT. Reading an output port (10_state.md R21, 60_exceptions.md R100).
-/

namespace Sys2Proof.Machine

/-! ### Which ports have no value -/

theorem State.port_of_delivered_none {s : State} (h : s.delivered = none) (p : Port) : s.port p = none := by
  simp [State.port, h]

theorem State.port_of_delivered {s : State} {r : Result} (h : s.delivered = some r) (p : Port) :
    s.port p = r.port p := by simp [State.port, h]

/-- An outcome with neither a temperature nor a split shows nothing at any of the three value ports. -/
theorem Result.port_eq_none_of_valuePort {r : Result} {p : Port} (hp : p = .tempMdeg ∨ p = .whole ∨ p = .rem)
    (ht : r.temp = none) (hd : r.display = none) : r.port p = none := by
  obtain rfl | rfl | rfl := hp
  · simp [Result.port, ht]
  · simp [Result.port, hd]
  · simp [Result.port, hd]

/-! ### The event that reads a port -/

theorem onReadPort_of_port_some {s : State} {p : Port} {x : PortValue} (h : s.port p = some x) :
    onReadPort p s = .next s := by simp only [onReadPort, h]

theorem onReadPort_of_port_none {s : State} {p : Port} (h : s.port p = none) :
    onReadPort p s = .fault (.outputHasNoValue p) := by simp only [onReadPort, h]

/-- Settles O29: a port faults exactly where it shows nothing, and each case names an outcome that shows nothing there. -/
theorem readingAPortWithoutValueFaults : Obligations.ReadingAPortWithoutValueFaults := by
  intro s p rest hs hf
  have faults (h : s.port p = none) : step s = .fault (.outputHasNoValue p) :=
    (step_of_script hs hf).trans (onReadPort_of_port_none h)
  have faultsAfter {r : Result} (hr : s.delivered = some r) (h : r.port p = none) :
      step s = .fault (.outputHasNoValue p) := faults ((State.port_of_delivered hr p).trans h)
  refine ⟨fun h => faults (State.port_of_delivered_none h p), ?err, ?errCode, ?noValue, ?split,
    fun x h => (step_of_script hs hf).trans (onReadPort_of_port_some h), faults⟩
  case err => exact fun e h hp => faultsAfter h (Result.port_eq_none_of_valuePort hp rfl rfl)
  case errCode =>
    rintro v h rfl
    exact faultsAfter h rfl
  case noValue =>
    rintro v h (⟨b0, b1, rfl⟩ | ⟨w, rfl⟩ | ⟨sh, f, rfl⟩ | ⟨c16, c, rfl⟩) hp
    all_goals exact faultsAfter h (Result.port_eq_none_of_valuePort hp rfl rfl)
  case split =>
    rintro whole rem h rfl
    exact faultsAfter h rfl

end Sys2Proof.Machine
end

section
/-! SUPPORT. What an operation sees of earlier ones: only how many frames stand, where a bus answer is not listed (10_state.md R14).
-/

namespace Sys2Proof.Machine

/-- An outcome with its next state, if it has one, changed by `f`. -/
def mapNext (f : State → State) : Host.Outcome State Fault Refusal → Host.Outcome State Fault Refusal
  | .next s => .next (f s)
  | .fault x => .fault x
  | .refused r => .refused r

/-- Changing the state before an answer is delivered changes the outcome likewise, if delivering commutes with the change. -/
theorem finishBus_map {value : Byte → Byte → Value} {f g : State → State}
    (hfg : ∀ a t, (f t).returnAnswer value a = g (t.returnAnswer value a)) (x : Except Refusal (BusAnswer × State)) :
    finishBus value (x.map (Prod.map id f)) = mapNext g (finishBus value x) := by
  rcases x with r | ⟨a, t⟩
  · rfl
  · exact congrArg Host.Outcome.next (hfg a t)

/-- The state with its past replaced: what the last invocation handed out, and what earlier transactions drove. -/
def State.withPast (handedOut : Option Result) (driven : List (List WireEvent)) (s : State) : State :=
  { s with delivered := handedOut, frames := driven }

/-- The state with its first `k` frames replaced. -/
def State.replaceFrames (driven : List (List WireEvent)) (k : Nat) (t : State) : State :=
  { t with frames := driven ++ t.frames.drop k }

/-- The next answer is the same with another past, where answers are listed or as many frames stand. -/
theorem State.nextAnswer_withPast {s : State} {driven : List (List WireEvent)}
    (hlen : s.answers = [] → driven.length = s.frames.length) (handedOut : Option Result) :
    (s.withPast handedOut driven).nextAnswer = s.nextAnswer := by
  by_cases ha : s.answers = []
  · exact State.nextAnswer_congr rfl (hlen ha)
  · obtain ⟨a, rest, hcons⟩ := List.exists_cons_of_ne_nil ha
    have hcons' : (s.withPast handedOut driven).answers = a :: rest := hcons
    rw [State.nextAnswer_of_cons hcons, State.nextAnswer_of_cons hcons']

section

variable {s : State} {handedOut : Option Result} {driven : List (List WireEvent)}

theorem State.afterTransaction_withPast (hans : (s.withPast handedOut driven).nextAnswer = s.nextAnswer)
    (a : BusAddress) (r : Byte) : (s.withPast handedOut driven).afterTransaction a r =
      { (s.afterTransaction a r).replaceFrames driven s.frames.length with delivered := handedOut } := by
  rw [State.afterTransaction, hans]
  simp [State.afterTransaction, State.replaceFrames, State.withPast]

/-- A transaction with another past, but the same next answer, is refused alike or drives the same frame after that past. -/
theorem busTransact_withPast (hans : (s.withPast handedOut driven).nextAnswer = s.nextAnswer)
    (h : HandleId) (a : BusAddress) (bs : List Byte) (n : Nat) :
    busTransact h a bs n (s.withPast handedOut driven) = (busTransact h a bs n s).map
      (Prod.map id fun t => { t.replaceFrames driven s.frames.length with delivered := handedOut }) := by
  have href : (s.withPast handedOut driven).busRefusal h = s.busRefusal h := rfl
  unfold busTransact
  rw [href, hans, State.afterTransaction_withPast hans]
  cases argumentRefusal a bs n with
  | some r => rfl
  | none =>
    cases s.busRefusal h with
    | some r => rfl
    | none => rfl

/-- A bus operation delivers its answer over whatever was handed out before. -/
theorem finishBus_withPast (hans : (s.withPast handedOut driven).nextAnswer = s.nextAnswer)
    (value : Byte → Byte → Value) (h : HandleId) (a : BusAddress) (bs : List Byte) (n : Nat) :
    finishBus value (busTransact h a bs n (s.withPast handedOut driven)) =
      mapNext (State.replaceFrames driven s.frames.length) (finishBus value (busTransact h a bs n s)) := by
  rw [busTransact_withPast hans]
  refine finishBus_map (fun x t => ?_) _
  cases x <;> rfl

/-- Every operation with another past ends as it did, with the frames it drives itself after that past. -/
theorem exec_withPast {i : Instr} (hlen : i.usesBus = true → s.answers = [] → driven.length = s.frames.length) :
    exec i (s.withPast handedOut driven) = mapNext (State.replaceFrames driven s.frames.length) (exec i s) := by
  cases hi : i.usesBus with
  | true =>
    have hans := State.nextAnswer_withPast (hlen hi) handedOut
    cases i with
    | transact | read => exact finishBus_withPast hans _ _ _ _ _
    | compose | extract | signext | scale | decode | split => cases hi
  | false =>
    obtain ⟨v, hv⟩ | ⟨r, hr⟩ := exec_pure_uniform hi
    · rw [hv, hv s]
      simp [mapNext, State.withPast, State.replaceFrames]
    · rw [hr, hr s]
      rfl

end

/-- Settles O50: the three outcomes of the operation with its past replaced, read off `exec_withPast`. -/
theorem earlierOperationsAreInvisible : Obligations.EarlierOperationsAreInvisible := by
  intro i s handedOut driven hlen
  have hpast : exec i { s with delivered := handedOut, frames := driven } = _ := exec_withPast hlen
  rw [hpast]
  cases exec i s <;> rfl

end Sys2Proof.Machine
end

section
/-! SUPPORT. The endless polling loop (70_reset_and_hazards.md R115).
-/

namespace Sys2Proof.Machine

/-- The bus may be used, start-up has not failed, and the program left is the loop that reads again and again. -/
structure Polling (s : State) : Prop where
  busReady : s.busReady
  notFailed : ∀ e, s.startUp ≠ .failed e
  script : s.script = []
  after : s.afterScript = .loops (.invoke (.read s.handle.id)) []

/-- One turn of the polling loop is one read. -/
theorem Polling.step_eq {s : State} (h : Polling s) : step s = exec (.read s.handle.id) s := by
  rw [step_of_takeEvent (State.takeEvent_of_loops h.script h.after) h.notFailed, State.withScript_nil h.script]
  rfl

/-- One turn of the polling loop drives one transaction, uses up one answer, and the loop goes on. -/
theorem Polling.step_next {s : State} (h : Polling s) : ∃ t : State, step s = .next t ∧ Polling t ∧
    t.frames.length = s.frames.length + 1 ∧ t.answers = s.answers.tail ∧ t.handle = s.handle ∧
    t.afterScript = s.afterScript := by
  refine ⟨_, h.step_eq.trans (exec_read_of_busReady h.busReady), ⟨?_, ?_, ?_, ?_⟩, ?_⟩
  · simpa [State.busReady] using h.busReady
  · simpa using h.notFailed
  · simpa using h.script
  · simpa using h.after
  · simp

/-- After `n` turns of the polling loop `n` transactions have been driven and `n` answers used up, and the loop goes on. -/
theorem Polling.run_next {s : State} (h : Polling s) (n : Nat) : ∃ t : State, core.run n s = .next t ∧ Polling t ∧
    t.frames.length = s.frames.length + n ∧ t.answers = s.answers.drop n ∧ t.handle = s.handle ∧
    t.afterScript = s.afterScript := by
  induction n with
  | zero => exact ⟨s, rfl, h, rfl, rfl, rfl, rfl⟩
  | succ n ih =>
    obtain ⟨t, hrun, ht, htf, hta, hth, htl⟩ := ih
    obtain ⟨u, hstep, hu, huf, hua, huh, hul⟩ := ht.step_next
    exact ⟨u, core_run_succ_of_next hrun hstep, hu, by omega, by rw [hua, hta, List.tail_drop], huh.trans hth,
      hul.trans htl⟩

/-- Settles O54, by induction on the number of turns of the loop. -/
theorem pollingLoopNeverEnds : Obligations.PollingLoopNeverEnds := by
  intro s hr hf hs ha n
  obtain ⟨t, hrun, ht, hframes, hanswers, hhandle, hafter⟩ := Polling.run_next ⟨hr, hf, hs, ha⟩ n
  exact ⟨t, hrun, hframes, hanswers, hhandle, ht.script, hafter⟩

end Sys2Proof.Machine
end

section
/-! SUPPORT. An infinite program as the sequence of its states (10_state.md R11).
-/

namespace Sys2Proof.Machine

/-- The state after the first `n` operations of a program, invoked one after the other from `s` with nothing else left to
do; an operation that does not complete is passed over. -/
def State.afterOps (s : State) (program : Nat → Instr) : Nat → State
  | 0 => { s with script := [] }
  | n + 1 =>
    match exec (program n) (s.afterOps program n) with
    | .next t => t
    | .fault _ | .refused _ => s.afterOps program n

theorem State.afterOps_succ_of_next {s t : State} {program : Nat → Instr} {n : Nat}
    (h : exec (program n) (s.afterOps program n) = .next t) : s.afterOps program (n + 1) = t := by
  simp only [State.afterOps, h]

/-- The operations of a program leave the agents around the unit as they were, and nothing else to do. -/
theorem State.afterOps_frame (s : State) (program : Nat → Instr) (n : Nat) :
    (s.afterOps program n).startUp = s.startUp ∧ (s.afterOps program n).handle = s.handle ∧
      (s.afterOps program n).inFlight = s.inFlight ∧ (s.afterOps program n).sensorMode = s.sensorMode ∧
      (s.afterOps program n).script = [] := by
  induction n with
  | zero => exact ⟨rfl, rfl, rfl, rfl, rfl⟩
  | succ n ih =>
    unfold State.afterOps
    split
    · next t ht =>
      obtain ⟨hup, hhandle, hflight, hmode, hscript, -⟩ := exec_next_frame ht
      rwa [hup, hhandle, hflight, hmode, hscript]
    all_goals exact ih

/-- On a bus that may be used, every operation of an admissible program completes. -/
theorem State.exec_afterOps {s : State} {program : Nat → Instr} (hr : s.busReady)
    (hp : ∀ k, admissible s.handle.id (program k)) (n : Nat) :
    exec (program n) (s.afterOps program n) = .next (s.afterOps program (n + 1)) := by
  obtain ⟨-, hhandle, hflight, hmode, -⟩ := s.afterOps_frame program n
  have hready : (s.afterOps program n).busReady := by rwa [State.busReady, hhandle, hflight, hmode]
  obtain ⟨t, ht⟩ := exec_of_admissible hready (hhandle ▸ hp n)
  rw [ht, State.afterOps_succ_of_next ht]

/-- Running the first `n` operations of an admissible program as a script leaves the rest of the script, in the state after
those operations. -/
theorem State.run_afterOps {s : State} {program : Nat → Instr} (hr : s.busReady) (hf : ∀ e, s.startUp ≠ .failed e)
    (hp : ∀ k, admissible s.handle.id (program k)) (n : Nat) (rest : List Event) :
    core.run n { s with script := ((List.range n).map fun k => .invoke (program k)) ++ rest } =
      .next { s.afterOps program n with script := rest } := by
  induction n generalizing rest with
  | zero => rfl
  | succ n ih =>
    obtain ⟨hup, -⟩ := s.afterOps_frame program n
    rw [List.range_succ, List.map_append, List.append_assoc]
    refine core_run_succ_of_next (ih (.invoke (program n) :: rest)) ?_
    calc step { s.afterOps program n with script := .invoke (program n) :: rest }
      _ = onEvent (.invoke (program n)) { s.afterOps program n with script := rest } := step_of_script rfl (hup ▸ hf)
      _ = .next { s.afterOps program (n + 1) with script := rest } :=
        exec_withScript rest (State.exec_afterOps hr hp n)

/-- Settles O55: the states are those after each operation, and running a script of the first `n` ends in the `n`-th. -/
theorem infiniteProgramsHaveARun : Obligations.InfiniteProgramsHaveARun := by
  intro s program hr hf hp
  refine ⟨s.afterOps program, rfl, fun n => ⟨State.exec_afterOps hr hp n, ?_⟩⟩
  obtain ⟨-, -, -, -, hscript⟩ := s.afterOps_frame program n
  have hrun := State.run_afterOps hr hf hp n []
  rwa [List.append_nil, State.withScript_nil hscript] at hrun

end Sys2Proof.Machine
end

section
/-! SUPPORT. The frame a transaction drives on a bus that may be used (30_encoding.md R46).
-/

namespace Sys2Proof.Machine

/-- Both bus operations, on a bus that may be used, drive the one frame of the next answer to the fixed register (R46, R57). -/
theorem exec_bus_frames {s : State} {i : Instr} (hr : s.busReady)
    (hi : i = .transact s.handle.id 0x48#7 [0x00#8] 2 ∨ i = .read s.handle.id) :
    ∃ t : State, exec i s = .next t ∧ t.frames = s.frames ++ [frameOf 0x48#7 0x00#8 s.nextAnswer] := by
  obtain rfl | rfl := hi
  · exact ⟨_, exec_transact_of_busReady hr, State.returnAnswer_frames _ _ _⟩
  · exact ⟨_, exec_read_of_busReady hr, State.returnAnswer_frames _ _ _⟩

/-- Settles O19: the frame of an answer with two bytes is the full frame, event by event. -/
theorem frameFollowsTheWireSequence : Obligations.FrameFollowsTheWireSequence := by
  intro s i b0 b1 hr hans hi
  obtain ⟨t, ht, hframes⟩ := exec_bus_frames hr hi
  rw [hans] at hframes
  exact ⟨t, ht, hframes⟩

end Sys2Proof.Machine
end

section
/-! SUPPORT. What `DECODE` sees of its word: the field, all of it, and nothing else (30_encoding.md R52, D10).
-/

namespace Sys2Proof.Machine

theorem field_and_mask (w : Word16) : (w &&& 0xFFF0#16).extractLsb' 4 12 = w.extractLsb' 4 12 := by
  have hmask : (0xFFF0#16).extractLsb' 4 12 = BitVec.allOnes 12 := by decide
  rw [BitVec.extractLsb'_and, hmask, BitVec.and_allOnes]

/-- Two counts scale alike only if they are equal: one step of the count is 62.5, and truncating drops less than 1 (R76). -/
theorem scale_tdiv_inj {c d : Int} : (c * 625).tdiv 10 = (d * 625).tdiv 10 ↔ c = d := by
  refine ⟨fun h => ?_, fun h => h ▸ rfl⟩
  have hc := tdiv_cases (c * 625) 10
  have hd := tdiv_cases (d * 625) 10
  omega

/-- The temperature of a word determines its field (R69, R76). -/
theorem decoded_inj {w v : Word16} : decoded w = decoded v ↔ w.extractLsb' 4 12 = v.extractLsb' 4 12 := by
  rw [← BitVec.toInt_inj, decoded_toInt, decoded_toInt, scale_tdiv_inj, BitVec.toInt_inj]

/-- Two `DECODE`s end alike exactly when they hand out the same temperature. -/
theorem exec_decode_inj {w v : Word16} {s : State} : exec (.decode w) s = exec (.decode v) s ↔ decoded w = decoded v := by
  simp [exec, execDecode, State.returnOk, State.deliver]

/-- Settles O35: `DECODE` ends alike on two words exactly when their fields agree, and the mask keeps the field. -/
theorem decodeSeesOnlyTheField : Obligations.DecodeSeesOnlyTheField := by
  intro w v s
  have sameField (v : Word16) : exec (.decode w) s = exec (.decode v) s ↔ w.extractLsb' 4 12 = v.extractLsb' 4 12 :=
    exec_decode_inj.trans decoded_inj
  exact ⟨(sameField _).2 (field_and_mask w).symm, sameField v⟩

end Sys2Proof.Machine
end

section
/-! SUPPORT. What a completed operation does to the bus session's answers and frames (30_encoding.md R46, 40_bus_transact.md R58).
-/

namespace Sys2Proof.Machine

/-- A pure operation uses up no answer and drives no frame (R8). -/
theorem exec_next_session_of_pure {i : Instr} {s t : State} (hi : i.usesBus = false) (h : exec i s = .next t) :
    t.answers = s.answers ∧ t.frames = s.frames := by
  obtain ⟨-, v, -, rfl⟩ | ⟨hbus, -⟩ := exec_next_cases h
  · exact ⟨State.returnOk_answers v s, State.returnOk_frames v s⟩
  · cases hi.symm.trans hbus

/-- A bus operation uses up one answer, and drives the frame of that answer to the fixed register, by either arm (R46, R58). -/
theorem exec_next_session_of_bus {i : Instr} {s t : State} (hi : i.usesBus = true) (h : exec i s = .next t) :
    t.answers = s.answers.tail ∧ t.frames = s.frames ++ [frameOf 0x48#7 0x00#8 s.nextAnswer] := by
  obtain ⟨hpure, -⟩ | ⟨-, -, value, -, rfl⟩ := exec_next_cases h
  · cases hi.symm.trans hpure
  · exact ⟨State.returnAnswer_answers value _ _, State.returnAnswer_frames value _ _⟩

/-- Settles O47: the six fields of the agents by `exec_next_frame`, the bus session's two by the kind of the operation. -/
theorem operationsChangeNothingElse : Obligations.OperationsChangeNothingElse := by
  intro i s t h
  obtain ⟨hup, hhandle, hflight, hmode, hscript, hafter⟩ := exec_next_frame h
  refine ⟨hup, hhandle, hflight, hmode, hscript, hafter, fun hi => exec_next_session_of_pure hi h, fun hi => ?_⟩
  obtain ⟨hanswers, hframes⟩ := exec_next_session_of_bus hi h
  exact ⟨hanswers, _, hframes⟩

end Sys2Proof.Machine
end

section
/-! SUPPORT. `TRANSACT` (40_bus_transact.md): what it hands out on a bus that may be used, and which arguments it refuses.
-/

namespace Sys2Proof.Machine

/-- An answer delivered changes the outputs alone, to the value of its two bytes or to its own code (R58, R59). -/
theorem State.returnAnswer_eq_with_delivered (value : Byte → Byte → Value) (a : BusAnswer) (s : State) :
    s.returnAnswer value a = { s with delivered := some (match a with
      | .ok b0 b1 => .ok (value b0 b1)
      | .fail k _ _ => .err (.busError k)) } := by cases a <;> rfl

/-- Settles O16: `exec_transact_of_busReady`, with the answer's delivery written out. -/
theorem transactReturnsTheAnswer : Obligations.TransactReturnsTheAnswer := by
  intro s hr
  have hexec := exec_transact_of_busReady hr
  rw [State.returnAnswer_eq_with_delivered] at hexec
  exact ⟨frameOf 0x48#7 0x00#8 s.nextAnswer, hexec⟩

/-- A wrong argument list is refused before anything of the state is looked at. -/
theorem exec_transact_of_argumentRefusal {a : BusAddress} {bs : List Byte} {n : Nat} {r : Refusal}
    (hr : argumentRefusal a bs n = some r) (h : HandleId) (s : State) : exec (.transact h a bs n) s = .refused r := by
  simp only [exec, execTransact, busTransact, hr, finishBus]

theorem argumentRefusal_of_address_ne {a : BusAddress} (ha : a ≠ 0x48#7) (bs : List Byte) (n : Nat) :
    argumentRefusal a bs n = some (.transactAddress a) := if_pos ha

theorem argumentRefusal_of_writeBytes_ne {bs : List Byte} (hbs : bs ≠ [0x00#8]) (n : Nat) :
    argumentRefusal 0x48#7 bs n = some (.transactWriteBytes bs) := by
  simp [argumentRefusal, hbs]

theorem argumentRefusal_of_readLength_ne {n : Nat} (hn : n ≠ 2) :
    argumentRefusal 0x48#7 [0x00#8] n = some (.transactReadLength n) := by
  simp [argumentRefusal, hn]

/-- Settles O21: one argument after the other, in the order in which `argumentRefusal` names them. -/
theorem transactRefusesOtherArguments : Obligations.TransactRefusesOtherArguments := by
  intro s h a bs n
  refine ⟨fun ha => ?_, fun hbs => ?_, fun hn => ?_⟩
  · exact exec_transact_of_argumentRefusal (argumentRefusal_of_address_ne ha bs n) h s
  · exact exec_transact_of_argumentRefusal (argumentRefusal_of_writeBytes_ne hbs n) h s
  · exact exec_transact_of_argumentRefusal (argumentRefusal_of_readLength_ne hn) h s

end Sys2Proof.Machine
end

section
/-! SUPPORT. The field decode (41_field_decode.md): a word is its field above four low bits, and the count is the field's
two's-complement value.
-/

namespace Sys2Proof.Machine

/-! ### A word as its field above four low bits -/

theorem composeWord_eq_append (b0 b1 : Byte) : composeWord b0 b1 = b0 ++ b1 := by
  rw [← BitVec.setWidth_eq (b0 ++ b1), BitVec.setWidth_append_eq_shiftLeft_setWidth_or]
  rfl

theorem composeWord_toInt (b0 b1 : Byte) : (composeWord b0 b1).toInt = 256 * b0.toInt + b1.toNat := by
  rw [composeWord_eq_append]
  exact BitVec.toInt_append

theorem shiftedOf_toNat (w : Word16) : (shiftedOf w).toNat = w.toNat / 16 := by
  rw [shiftedOf, BitVec.toNat_ushiftRight, Nat.shiftRight_eq_div_pow]

theorem word_eq_append_low (w : Word16) : w = w.extractLsb' 4 12 ++ w.extractLsb' 0 4 :=
  (BitVec.extractLsb'_append_extractLsb' (w := 12) (len := 4)).symm

/-- The words with the field `f` are `f` above any four bits (R68). -/
theorem field_eq_iff_exists_append {w : Word16} {f : Field12} :
    w.extractLsb' 4 12 = f ↔ ∃ x : BitVec 4, w = f ++ x := by
  constructor
  · rintro rfl
    exact ⟨w.extractLsb' 0 4, word_eq_append_low w⟩
  · rintro ⟨x, rfl⟩
    exact BitVec.extractLsb'_append_eq_left

/-- A signed word is sixteen times its field, plus its four low bits unsigned (R67 (e)). -/
theorem word_toInt_eq_field (w : Word16) :
    w.toInt = 16 * (w.extractLsb' 4 12).toInt + ((w.extractLsb' 0 4).toNat : Int) :=
  (congrArg BitVec.toInt (word_eq_append_low w)).trans BitVec.toInt_append

/-- The field is the signed word divided by 16, rounding down (R66). -/
theorem field_toInt_eq_fdiv (w : Word16) : (w.extractLsb' 4 12).toInt = w.toInt.fdiv 16 := by
  have hword := word_toInt_eq_field w
  have hlow := (w.extractLsb' 0 4).isLt
  rw [Int.fdiv_eq_ediv_of_nonneg _ (by decide)]
  omega

/-- The arithmetic shift alone is that division too (R66). -/
theorem sshiftRight_toInt_eq_fdiv (w : Word16) : (w.sshiftRight 4).toInt = w.toInt.fdiv 16 := by
  rw [BitVec.toInt_sshiftRight, Int.shiftRight_eq_div_pow, Int.fdiv_eq_ediv_of_nonneg _ (by decide)]
  rfl

/-- R67 (f): the field in the two bytes of its word. -/
theorem field_composeWord_toInt (b0 b1 : Byte) : ((composeWord b0 b1).extractLsb' 4 12).toInt =
    16 * b0.toInt + ((b1.extractLsb' 4 4).toNat : Int) := by
  have hhigh : (b1.extractLsb' 4 4).toNat = b1.toNat / 16 := by
    rw [BitVec.extractLsb'_toNat, Nat.shiftRight_eq_div_pow, Nat.mod_eq_of_lt (by have := b1.isLt; omega)]
  rw [field_toInt_eq_fdiv, composeWord_toInt, hhigh, Int.fdiv_eq_ediv_of_nonneg _ (by decide)]
  omega

/-- Both shifts leave the same field in bits 11:0 (R66). -/
theorem fieldOf_sshiftRight (w : Word16) : fieldOf (w.sshiftRight 4) = fieldOf (w >>> 4) := by
  apply BitVec.eq_of_getLsbD_eq
  intro i hi
  have hinside : 4 + i < 16 := by omega
  have hbelow : ¬16 ≤ i := by omega
  simp [fieldOf, BitVec.getLsbD_sshiftRight, hinside, hbelow]

/-- Four bits put in bits 3:0 do not reach the field (R68). -/
theorem field_or_low (v : Word16) (x : BitVec 4) : (v ||| x.setWidth 16).extractLsb' 4 12 = v.extractLsb' 4 12 := by
  have hlow : (x.setWidth 16).extractLsb' 4 12 = 0#12 := by
    apply BitVec.eq_of_toNat_eq
    have := x.isLt
    simp only [BitVec.extractLsb'_toNat, BitVec.toNat_setWidth, Nat.shiftRight_eq_div_pow, BitVec.toNat_ofNat]
    omega
  rw [BitVec.extractLsb'_or, hlow, BitVec.or_zero]

/-- The word that left-justifies `n` has the field that holds `n` in twelve bits (R69). -/
theorem field_leftJustified (n : Int) (x : BitVec 4) :
    ((BitVec.ofInt 16 (n % 4096) <<< 4) ||| x.setWidth 16).extractLsb' 4 12 = BitVec.ofInt 12 n := by
  rw [field_or_low]
  apply BitVec.eq_of_toNat_eq
  simp only [BitVec.extractLsb'_toNat, BitVec.toNat_shiftLeft, BitVec.toNat_ofInt, Nat.shiftLeft_eq,
    Nat.shiftRight_eq_div_pow]
  omega

theorem fieldOf_setWidth (f : Field12) : fieldOf (f.setWidth 16) = f := by
  rw [fieldOf, BitVec.extractLsb'_setWidth_of_le (by decide), BitVec.extractLsb'_eq_self]

/-- Where bits 15:12 are zero the operand is its field (R65). -/
theorem setWidth_fieldOf {sh : Word16} (h : sh.toNat ≤ 0x0FFF) : (fieldOf sh).setWidth 16 = sh := by
  apply BitVec.eq_of_toNat_eq
  rw [BitVec.toNat_setWidth, fieldOf, BitVec.extractLsb'_toNat, Nat.shiftRight_zero]
  omega

/-! ### The value of a field -/

/-- R67 (a): the sign bit weighs −4096. -/
theorem field_toInt_eq_signBit (f : Field12) :
    f.toInt = (f.toNat : Int) - 4096 * (if f.getLsbD 11 then 1 else 0) := by
  have hmsb : f.msb = f.getLsbD 11 := f.msb_eq_getLsbD_last
  rw [BitVec.toInt_eq_msb_cond, hmsb]
  split <;> norm_num

/-- R67 (b): the upper half of the fields is negative. -/
theorem field_toInt_eq_half (f : Field12) :
    f.toInt = if f.toNat < 2048 then (f.toNat : Int) else (f.toNat : Int) - 4096 := by
  rw [BitVec.toInt_eq_toNat_cond]
  split <;> split <;> omega

/-- R67 (c): turning the sign bit over adds 2048. -/
theorem field_toInt_eq_xor (f : Field12) : f.toInt = ((f ^^^ 0x800#12).toNat : Int) - 0x800 := by
  have hxor : (f ^^^ 0x800#12).toNat = f.toNat ^^^ 2048 := BitVec.toNat_xor ..
  have hhigh : (f.toNat ^^^ 2048) / 2048 = f.toNat / 2048 ^^^ 1 := Nat.xor_div_two_pow (n := 11)
  have hlow : (f.toNat ^^^ 2048) % 2048 = f.toNat % 2048 := (Nat.xor_mod_two_pow (n := 11)).trans (Nat.xor_zero _)
  have hlt := f.isLt
  rw [field_toInt_eq_half, hxor]
  split
  · have hbit : f.toNat / 2048 = 0 := by omega
    rw [hbit, Nat.zero_xor] at hhigh
    omega
  · have hbit : f.toNat / 2048 = 1 := by omega
    rw [hbit, Nat.xor_self] at hhigh
    omega

theorem toInt_neg_iff_signBit {n : Nat} (v : BitVec n) : v.toInt < 0 ↔ v.getLsbD (n - 1) = true := by
  rw [← BitVec.msb_eq_getLsbD_last, BitVec.msb_eq_toInt, decide_eq_true_iff]

/-- A field is negative exactly when its word is (R67). -/
theorem field_neg_iff (w : Word16) : (w.extractLsb' 4 12).toInt < 0 ↔ w.toInt < 0 := by
  have hword := word_toInt_eq_field w
  have hlow := (w.extractLsb' 0 4).isLt
  omega

/-- A composed word is negative exactly when its first byte is (R67). -/
theorem composeWord_neg_iff (b0 b1 : Byte) : (composeWord b0 b1).toInt < 0 ↔ b0.toInt < 0 := by
  have hlow := b1.isLt
  rw [composeWord_toInt]
  omega

/-- Every integer of the range of counts is the value of a field (R69). -/
theorem field_ofInt_toInt {n : Int} (lo : -2048 ≤ n) (hi : n ≤ 2047) : (BitVec.ofInt 12 n).toInt = n :=
  BitVec.toInt_ofInt_eq_self (by decide) lo (Int.lt_add_one_of_le hi)

theorem countOf_shiftedOf_toInt (w : Word16) : (countOf (shiftedOf w)).toInt = (w.extractLsb' 4 12).toInt := by
  rw [countOf_toInt, fieldOf_shiftedOf]

/-! ### What the three operations return -/

/-- An operation returns one value. -/
theorem returns_unique {i : Instr} {s : State} {v u : Value} (hv : returns i s v) (hu : returns i s u) : v = u := by
  have h : Host.Outcome.next { s with delivered := some (.ok v) } = .next { s with delivered := some (.ok u) } :=
    hv.symm.trans hu
  simpa using h

theorem returns_compose (b0 b1 : Byte) (s : State) : returns (.compose b0 b1) s (.word (composeWord b0 b1)) := rfl

theorem returns_extract (w : Word16) (s : State) :
    returns (.extract w) s (.field (shiftedOf w) (w.extractLsb' 4 12)) := by
  rw [← fieldOf_shiftedOf]
  rfl

theorem returns_signext (sh : Word16) (s : State) :
    returns (.signext sh) s (.count (count16Of sh) (countOf sh)) := rfl

/-- The count `SIGNEXT` hands out is the two's-complement value of its operand's field (R65, D8). -/
theorem toInt_of_returns_signext {sh c16 : Word16} {c : Wide} {s : State}
    (h : returns (.signext sh) s (.count c16 c)) : c.toInt = (fieldOf sh).toInt := by
  cases returns_unique h (returns_signext sh s)
  exact countOf_toInt sh

/-- `SIGNEXT` reads the field of its operand and nothing else (R65, D8). -/
theorem exec_signext_congr {sh sh' : Word16} (h : fieldOf sh = fieldOf sh') (s : State) :
    exec (.signext sh) s = exec (.signext sh') s := by
  simp only [exec, execSignext, countOf, count16Of, h]

/-! ### The obligations -/

/-- Settles O10: the composed word is the first byte followed by the second. -/
theorem composePutsTheFirstByteHigh : Obligations.ComposePutsTheFirstByteHigh := by
  intro b0 b1 s
  refine ⟨_, returns_compose b0 b1 s, composeWord_toNat b0 b1, ?_⟩
  rw [composeWord_eq_append]
  exact ⟨BitVec.extractLsb'_append_eq_left, BitVec.extractLsb'_append_eq_right⟩

/-- Settles O11: the shifted word is the quotient by 16, so it is below 4096, and its low 12 bits are the field. -/
theorem extractShiftsOutFourBits : Obligations.ExtractShiftsOutFourBits := by
  intro w s
  refine ⟨_, _, returns_extract w s, shiftedOf_toNat w, ?_, fieldOf_shiftedOf w, rfl⟩
  have hlt : w.toNat / 16 / 2 ^ 12 = 0 := by
    have := w.isLt
    omega
  apply BitVec.eq_of_toNat_eq
  rw [BitVec.extractLsb'_toNat, shiftedOf_toNat, Nat.shiftRight_eq_div_pow, hlt]
  rfl

/-- Settles O12: both widths hold the field's value, and the field of an operand `EXTRACT` can give is the operand. -/
theorem signextReadsTheLowTwelveBits : Obligations.SignextReadsTheLowTwelveBits := by
  intro sh s
  refine ⟨_, _, returns_signext sh s, countOf_toInt sh, count16Of_toInt sh, fun h => ?_⟩
  have hbit : (fieldOf sh).getLsbD 11 = sh.getLsbD 11 := by simp [fieldOf]
  simp only [count16Of, setWidth_fieldOf h, hbit]

/-- Settles O32: both shifts leave one field, whose value is the arithmetic shift's and the floored quotient's. -/
theorem shiftKindDoesNotMatter : Obligations.ShiftKindDoesNotMatter := by
  intro w s
  have hlogical := returns_signext (shiftedOf w) s
  have hcount := (countOf_shiftedOf_toInt w).trans (field_toInt_eq_fdiv w)
  exact ⟨_, _, hlogical, (exec_signext_congr (fieldOf_sshiftRight w) s).trans hlogical,
    hcount.trans (sshiftRight_toInt_eq_fdiv w).symm, hcount⟩

/-- Settles O33: the count is the field's value, which each closed form gives. -/
theorem countClosedFormsAgree : Obligations.CountClosedFormsAgree := by
  intro b0 b1 w s h
  have hw : w = composeWord b0 b1 := Value.word.inj (returns_unique h (returns_compose b0 b1 s))
  have hbytes := field_composeWord_toInt b0 b1
  have hsign := composeWord_neg_iff b0 b1
  rw [← hw] at hbytes hsign
  have hfdiv := field_toInt_eq_fdiv w
  have hexact := eq_sub_of_add_eq (word_toInt_eq_field w).symm
  refine ⟨_, _, _, _, returns_extract w s, returns_signext _ s, rfl, ?_⟩
  rw [countOf_shiftedOf_toInt]
  refine ⟨field_toInt_eq_signBit _, field_toInt_eq_half _, field_toInt_eq_xor _,
    hfdiv.trans (sshiftRight_toInt_eq_fdiv w).symm, hfdiv, hexact, hbytes, ?_, ?_⟩
  · exact (field_neg_iff w).trans (toInt_neg_iff_signBit w)
  · exact (field_neg_iff w).trans (hsign.trans (toInt_neg_iff_signBit b0))

/-- Settles O34: the four bits do not reach the field, and the words with one field are that field above any four bits. -/
theorem lowFourBitsAreIgnored : Obligations.LowFourBitsAreIgnored := by
  refine ⟨fun w x s c16 c h => ?_, fun n lo hi => ⟨BitVec.ofInt 12 n, fun w s c16 c h => ?_⟩⟩
  · have hfield : fieldOf (shiftedOf ((w &&& 0xFFF0#16) ||| x.setWidth 16)) = fieldOf (shiftedOf w) := by
      rw [fieldOf_shiftedOf, fieldOf_shiftedOf, field_or_low, field_and_mask]
    exact (exec_signext_congr hfield s).trans h
  · have hcount : c.toInt = (w.extractLsb' 4 12).toInt :=
      (toInt_of_returns_signext h).trans (congrArg BitVec.toInt (fieldOf_shiftedOf w))
    calc c.toInt = n
      _ ↔ (w.extractLsb' 4 12).toInt = (BitVec.ofInt 12 n).toInt := by rw [hcount, field_ofInt_toInt lo hi]
      _ ↔ w.extractLsb' 4 12 = BitVec.ofInt 12 n := BitVec.toInt_inj
      _ ↔ ∃ x : BitVec 4, w = BitVec.ofInt 12 n ++ x := field_eq_iff_exists_append

/-- Settles O36: the count of a field is its value, which determines it, and the field of the left-justified word is the
one that holds the count. -/
theorem fieldToCountIsABijection : Obligations.FieldToCountIsABijection := by
  refine ⟨fun f s => ⟨_, _, returns_signext _ s, ?_⟩, fun f g s c16 d16 c d hc hd h => ?_, fun n x s lo hi => ?_⟩
  · have hlt := f.isLt
    rw [countOf_toInt, fieldOf_setWidth, field_toInt_eq_half]
    split <;> omega
  · rw [toInt_of_returns_signext hc, toInt_of_returns_signext hd, fieldOf_setWidth, fieldOf_setWidth] at h
    exact BitVec.eq_of_toInt_eq h
  · refine ⟨_, _, _, _, returns_extract _ s, returns_signext _ s, ?_⟩
    rw [countOf_shiftedOf_toInt, field_leftJustified, field_ofInt_toInt lo hi]

end Sys2Proof.Machine
end

section
/-! SUPPORT. The scaling (42_scale_decode.md): 62.5 millidegrees a count, the half truncated toward zero.
-/

namespace Sys2Proof.Machine

/-! ### The truncated quotient -/

/-- The fraction 625/10 in lowest terms (R74 (a)). -/
theorem scale_tdiv_eq_half (n : Int) : (n * 625).tdiv 10 = (n * 125).tdiv 2 := by
  have hfive : n * 625 = n * 125 * 5 := by omega
  rw [hfive]
  exact Int.mul_tdiv_mul_of_pos_left (n * 125) 2 (by decide)

/-- Truncating is flooring, plus one at the odd negative counts (R73). -/
theorem scale_tdiv_eq_floor (n : Int) :
    (n * 625).tdiv 10 = 125 * n / 2 + (if n < 0 ∧ n % 2 = 1 then 1 else 0) := by
  obtain ⟨hpos, hneg⟩ := tdiv_cases (n * 125) 2
  rw [scale_tdiv_eq_half]
  split <;> omega

/-- The floored quotient is the floored half (R73). -/
theorem scale_fdiv_eq_half (n : Int) : (625 * n).fdiv 10 = 125 * n / 2 := by
  rw [Int.fdiv_eq_ediv_of_nonneg _ (by decide)]
  omega

/-- The quotient of the magnitudes, with the sign of the count (R74 (c)). -/
theorem scale_tdiv_eq_sign_mul (n : Int) : (n * 625).tdiv 10 = n.sign * ((n.natAbs * 625 / 10 : Nat) : Int) := by
  obtain ⟨hpos, hneg⟩ := tdiv_cases (n * 625) 10
  obtain h | rfl | h := lt_trichotomy n 0
  · rw [Int.sign_eq_neg_one_of_neg h]
    omega
  · rfl
  · rw [Int.sign_eq_one_of_pos h]
    omega

/-! ### What `SCALE` returns -/

theorem returns_scale {c : Wide} (h : -3435973 ≤ c.toInt ∧ c.toInt ≤ 3435973) (s : State) :
    returns (.scale c) s (.temperature (scaled c)) := if_pos ((productFits_iff c).2 h)

theorem returns_decode (w : Word16) (s : State) : returns (.decode w) s (.temperature (decoded w)) := rfl

section

variable {c : Wide} (lo : -2048 ≤ c.toInt) (hi : c.toInt ≤ 2047)
include lo hi

/-- The product of a count of the datapath fits `W` bits (R72). -/
theorem count_fits : -3435973 ≤ c.toInt ∧ c.toInt ≤ 3435973 := by omega

theorem scaled_count_toInt :
    (scaled c).toInt = 125 * c.toInt / 2 + (if c.toInt < 0 ∧ c.toInt % 2 = 1 then 1 else 0) := by
  obtain ⟨hlo, hhi⟩ := count_fits lo hi
  rw [scaled_toInt hlo hhi, scale_tdiv_eq_floor]

theorem toInt_of_returns_scale {T : Wide} {s : State} (h : returns (.scale c) s (.temperature T)) :
    T.toInt = 125 * c.toInt / 2 + (if c.toInt < 0 ∧ c.toInt % 2 = 1 then 1 else 0) := by
  cases returns_unique h (returns_scale (count_fits lo hi) s)
  exact scaled_count_toInt lo hi

end

/-! ### Arithmetic on words that does not wrap -/

theorem wide_add_toInt {a b : Wide} {m n : Int} (ha : a.toInt = m) (hb : b.toInt = n) (lo : -2147483648 ≤ m + n)
    (hi : m + n ≤ 2147483647) : (a + b).toInt = m + n := by
  rw [BitVec.toInt_add, ha, hb]
  apply Int.bmod_eq_of_le <;> omega

theorem wide_mul_toInt {a b : Wide} {m n : Int} (ha : a.toInt = m) (hb : b.toInt = n) (lo : -2147483648 ≤ m * n)
    (hi : m * n ≤ 2147483647) : (a * b).toInt = m * n := by
  rw [BitVec.toInt_mul, ha, hb]
  apply Int.bmod_eq_of_le <;> omega

theorem wide_neg_toInt {a : Wide} (h : -2147483648 < a.toInt) : (-a).toInt = -a.toInt := by
  have := wide_toInt_bounds a
  rw [BitVec.toInt_neg]
  apply Int.bmod_eq_of_le <;> omega

theorem wide_sshiftRight_toInt (a : Wide) (n : Nat) : (a.sshiftRight n).toInt = a.toInt / 2 ^ n := by
  rw [BitVec.toInt_sshiftRight, Int.shiftRight_eq_div_pow]
  rfl

theorem wide_ite_one_toInt (p : Prop) [Decidable p] : (if p then 1#32 else 0#32).toInt = if p then 1 else 0 := by
  split <;> decide

/-- From 22 bits on, an integer that fits 22 bits is held exactly (R75). -/
theorem ofInt_toInt_of_22_le {width : Nat} (h : 22 ≤ width) {n : Int} (lo : -(2 ^ 21) ≤ n) (hi : n < 2 ^ 21) :
    (BitVec.ofInt width n).toInt = n := by
  have hpow : (2 : Int) ^ 21 ≤ 2 ^ (width - 1) := pow_le_pow_right₀ (by decide) (by omega)
  exact BitVec.toInt_ofInt_eq_self (by omega) (by omega) (by omega)

/-- 128 − 4 + 1 = 125 by shifts and additions (R74 (d)). -/
theorem shiftAdd_eq_mul (c : Wide) : (c <<< 7) - (c <<< 2) + c = 125#32 * c := by
  bv_omega

/-! ### The obligations -/

/-- Settles O13: a count completes exactly when its product fits. -/
theorem scaleMultipliesThenTruncates : Obligations.ScaleMultipliesThenTruncates := by
  intro c s
  refine ⟨fun h => ?_, fun h => if_neg ?_⟩
  · obtain ⟨lo, hi⟩ := h
    exact ⟨_, returns_scale ⟨lo, hi⟩ s, scaled_toInt lo hi⟩
  · rw [productFits_iff]
    omega

/-- Settles O14: the word is scaled from its field, which lies in −2048..2047. -/
theorem decodeConvertsEveryWord : Obligations.DecodeConvertsEveryWord := by
  intro w s
  obtain ⟨lo, hi⟩ := field_toInt_bounds (w.extractLsb' 4 12)
  have htemp := decoded_toInt w
  refine ⟨_, returns_decode w s, htemp, ?_⟩
  rw [htemp, scale_tdiv_eq_floor]
  omega

/-- Settles O37: each clause by the sign and the parity of the count, from `scaled_count_toInt`. -/
theorem scaleTruncatesTowardZero : Obligations.ScaleTruncatesTowardZero := by
  intro c s lo hi
  have htemp := scaled_count_toInt lo hi
  refine ⟨_, returns_scale (count_fits lo hi) s, ?magnitude, ?nonneg, ?nonpos, ?even, ?oddPos, ?oddNeg, ?floor⟩
  case floor =>
    rw [scale_fdiv_eq_half]
    omega
  case magnitude | nonneg | nonpos | even | oddPos | oddNeg => omega

/-- Settles O38: no step of the forms on 32-bit words wraps, and their shifts floor. -/
theorem scaleEquivalentFormsAgree : Obligations.ScaleEquivalentFormsAgree := by
  intro c s lo hi
  have htemp := scaled_count_toInt lo hi
  have hhalf := tdiv_cases c.toInt 2
  have h125 : (125#32 * c).toInt = 125 * c.toInt := wide_mul_toInt (by decide) rfl (by omega) (by omega)
  refine ⟨_, returns_scale (count_fits lo hi) s, ?lowestTerms, ?halves, ?sign, ?shiftAdd, ?halvesOfWords, ?shift10,
    ?shift1⟩
  case lowestTerms => rw [htemp, ← scale_tdiv_eq_floor, scale_tdiv_eq_half]
  case halves => omega
  case sign => rw [htemp, ← scale_tdiv_eq_floor, scale_tdiv_eq_sign_mul]
  case shiftAdd =>
    have hround := wide_add_toInt h125 (wide_ite_one_toInt ((125#32 * c).toInt < 0)) (by omega) (by omega)
    apply BitVec.eq_of_toInt_eq
    rw [shiftAdd_eq_mul, wide_sshiftRight_toInt, hround]
    omega
  case halvesOfWords =>
    have h62 : (62#32 * c).toInt = 62 * c.toInt := wide_mul_toInt (by decide) rfl (by omega) (by omega)
    have hfloor := wide_add_toInt h62 (wide_sshiftRight_toInt c 1) (by omega) (by omega)
    have hround := wide_add_toInt hfloor (wide_ite_one_toInt (c.toInt < 0 ∧ c.toInt % 2 = 1)) (by omega) (by omega)
    apply BitVec.eq_of_toInt_eq
    omega
  case shift10 =>
    have h64000 : (c * 64000#32).toInt = c.toInt * 64000 := wide_mul_toInt rfl (by decide) (by omega) (by omega)
    rw [wide_sshiftRight_toInt, h64000]
    omega
  case shift1 =>
    rw [wide_sshiftRight_toInt, h125]
    omega

/-- Settles O39: 22 bits hold every product and every result; 16 bits lose the product from 53 counts on. -/
theorem scaleDoesNotDependOnTheWidth : Obligations.ScaleDoesNotDependOnTheWidth := by
  intro c s lo hi
  refine ⟨fun width hw => ⟨_, returns_scale (count_fits lo hi) s, ?_⟩, fun T h => ?_, by omega, by omega, ?_⟩
  · have hproduct : (BitVec.ofInt width (c.toInt * 625)).toInt = c.toInt * 625 :=
      ofInt_toInt_of_22_le hw (by omega) (by omega)
    rw [hproduct, scale_tdiv_eq_floor, ofInt_toInt_of_22_le hw (by omega) (by omega)]
    exact scaled_count_toInt lo hi
  · have htemp := toInt_of_returns_scale lo hi h
    omega
  · rw [BitVec.toInt_ofInt]
    simp only [Int.bmod]
    omega

/-- Settles O40: both temperatures are their floored halves, so their difference is read off sign and parity. -/
theorem scaleIsStrictlyIncreasing : Obligations.ScaleIsStrictlyIncreasing := by
  refine ⟨fun c d s T U lo hlt hi hT hU => ?_, fun s => ⟨?_, ?_⟩⟩
  · have htempC := toInt_of_returns_scale lo (by omega) hT
    have htempD := toInt_of_returns_scale (by omega) hi hU
    refine ⟨?increasing, ?oneStep, ?twoSteps⟩
    case increasing | oneStep | twoSteps => omega
  · exact returns_scale (by decide) s
  · exact returns_scale (by decide) s

/-- Settles O41: the truncated quotient changes sign with its count; the floored one is off by one at an odd count. -/
theorem scaleIsSymmetric : Obligations.ScaleIsSymmetric := by
  intro c s lo hi
  have hneg := wide_neg_toInt (a := c) (by omega)
  have hT := scaled_count_toInt (c := c) (by omega) (by omega)
  have hU := scaled_count_toInt (c := -c) (by omega) (by omega)
  refine ⟨_, _, returns_scale (by omega) s, returns_scale (by omega) s, ?_, ?_⟩
  · omega
  · rw [scale_fdiv_eq_half, scale_fdiv_eq_half]
    omega

/-- Settles O44: each operation overwrites what the one before handed out, and the count of a field fits. -/
theorem decodeIsTheThreeSteps : Obligations.DecodeIsTheThreeSteps := by
  intro w s
  have hbounds := field_toInt_bounds (w.extractLsb' 4 12)
  rw [← countOf_shiftedOf_toInt] at hbounds
  obtain ⟨lo, hi⟩ := hbounds
  exact ⟨_, _, _, _, _, _, _, returns_extract w s, rfl, returns_signext _ _, rfl,
    returns_scale (count_fits lo hi) _, rfl⟩

end Sys2Proof.Machine
end

section
/-! SUPPORT. When a bus operation completes, and what it is refused for (43_read.md R84, 70_reset_and_hazards.md R106, R109).
-/

namespace Sys2Proof.Machine

/-! ### The names of the violations -/

/-- A handle that is not the application's, or is not ready (R106). -/
theorem State.busRefusal_of_notReady {s : State} {h : HandleId} (hn : h ≠ s.handle.id ∨ s.handle.ready = false) :
    s.busRefusal h = some (.handleNotReady h) := by
  have hready : s.handleReady h = false := by
    obtain hne | hnr := hn
    · simp [State.handleReady, hne]
    · simp [State.handleReady, hnr]
  simp [State.busRefusal, hready]

theorem State.handleReady_of_ready {s : State} {h : HandleId} (hid : h = s.handle.id) (hrdy : s.handle.ready = true) :
    s.handleReady h = true := by simp [State.handleReady, hid, hrdy]

/-- The handle is ready, but another transaction is in flight on it (R109). -/
theorem State.busRefusal_of_inFlight {s : State} {h : HandleId} (hready : s.handleReady h = true)
    (hf : s.inFlight = true) : s.busRefusal h = some .overlappingTransaction := by
  simp [State.busRefusal, hready, hf]

/-- The bus is free, but the sensor is in a mode not covered (R53). -/
theorem State.busRefusal_of_extended {s : State} {h : HandleId} (hready : s.handleReady h = true)
    (hf : s.inFlight = false) (hm : s.sensorMode = .extended) : s.busRefusal h = some .sensorModeNotCovered := by
  simp [State.busRefusal, hready, hf, hm]

/-! ### Both bus operations, alike -/

theorem finishBus_of_busRefusal {s : State} {h : HandleId} {r : Refusal} (hr : s.busRefusal h = some r)
    (value : Byte → Byte → Value) : finishBus value (busTransact h 0x48#7 [0x00#8] 2 s) = .refused r := by
  have hargs : argumentRefusal 0x48#7 [0x00#8] 2 = none := argumentRefusal_eq_none.2 ⟨rfl, rfl, rfl⟩
  simp only [busTransact, hargs, hr, finishBus]

section

variable {s : State} {h : HandleId} {i : Instr} (hi : i = .transact h 0x48#7 [0x00#8] 2 ∨ i = .read h)
include hi

/-- What the bus is refused for is what both bus operations are refused for, under the same name. -/
theorem exec_bus_of_busRefusal {r : Refusal} (hr : s.busRefusal h = some r) : exec i s = .refused r := by
  obtain rfl | rfl := hi
  · exact finishBus_of_busRefusal hr _
  · exact finishBus_of_busRefusal hr _

/-- Both bus operations complete exactly on the application's handle, on a bus that may be used (R84). -/
theorem exec_bus_completes_iff : (∃ t, exec i s = .next t) ↔ h = s.handle.id ∧ s.busReady := by
  constructor
  · rintro ⟨t, ht⟩
    rw [← busRefusal_eq_none, Option.eq_none_iff_forall_ne_some]
    intro r hr
    cases ht.symm.trans (exec_bus_of_busRefusal hi hr)
  · rintro ⟨rfl, hr⟩
    obtain ⟨t, ht, -⟩ := exec_bus_frames hr hi
    exact ⟨t, ht⟩

end

/-- Settles O22: completion by `exec_bus_completes_iff`, each violation by the name `busRefusal` gives it. -/
theorem busOperationsNeedAReadyBus : Obligations.BusOperationsNeedAReadyBus := by
  intro s h i hi
  refine ⟨exec_bus_completes_iff hi, fun hn => ?notReady, fun hid hrdy hf => ?overlap, fun hid hrdy hf hm => ?mode⟩
  case notReady => exact exec_bus_of_busRefusal hi (State.busRefusal_of_notReady hn)
  case overlap =>
    exact exec_bus_of_busRefusal hi (State.busRefusal_of_inFlight (State.handleReady_of_ready hid hrdy) hf)
  case mode =>
    exact exec_bus_of_busRefusal hi (State.busRefusal_of_extended (State.handleReady_of_ready hid hrdy) hf hm)

end Sys2Proof.Machine
end

section
/-! SUPPORT. `READ` (43_read.md R80, R81): what it hands out is made of the one answer to its one transaction.
-/

namespace Sys2Proof.Machine

/-! ### What `READ` hands out for an answer -/

/-- What `READ` hands out for an answer, through the datapath; `exec_read_eq_readResult` ties it to the model. -/
def readResult : BusAnswer → Result
  | .ok b0 b1 => .ok (.temperature (decoded (composeWord b0 b1)))
  | .fail k _ _ => .err (.busError k)

/-- R80 in integers: the datapath gives the temperature of the answer's two bytes. -/
theorem readOutcome_readResult (a : BusAnswer) : readOutcome a (readResult a) := by
  cases a with
  | ok b0 b1 =>
    refine ⟨_, rfl, ?_⟩
    rw [decoded_toInt, field_composeWord_toInt]
  | fail k cause p => rfl

/-- `READ` hands out an error only where its transaction failed, and then that failure's own code (R81). -/
theorem readResult_eq_err_iff {a : BusAnswer} {e : TdcuError} :
    readResult a = .err e ↔ ∃ k cause p, a = .fail k cause p ∧ e = .busError k := by
  cases a with
  | ok b0 b1 => simp [readResult]
  | fail k cause p => simp [readResult, eq_comm]

theorem State.returnAnswer_eq_deliver_readResult (a : BusAnswer) (s : State) :
    s.returnAnswer (fun b0 b1 => .temperature (decoded (composeWord b0 b1))) a = s.deliver (readResult a) := by
  cases a <;> rfl

/-- `READ` on a bus that may be used: one answer used up, one frame driven, its result at the ports, and nothing else. -/
theorem exec_read_eq_readResult {s : State} (hr : s.busReady) : exec (.read s.handle.id) s = .next { s with
    answers := s.answers.tail
    frames := s.frames ++ [frameOf 0x48#7 0x00#8 s.nextAnswer]
    delivered := some (readResult s.nextAnswer) } := by
  rw [exec_read_of_busReady hr, State.returnAnswer_eq_deliver_readResult]
  rfl

/-- Settles O17: the next state is `exec_read_eq_readResult`'s, with the result R80 describes. -/
theorem readReturnsTheDecodedAnswer : Obligations.ReadReturnsTheDecodedAnswer := fun _ hr =>
  ⟨_, _, readOutcome_readResult _, exec_read_eq_readResult hr⟩

/-- Settles O18: the result is an error exactly where the transaction failed, with that failure's code. -/
theorem readPassesTheErrorOn : Obligations.ReadPassesTheErrorOn := by
  intro s hr
  refine ⟨_, _, exec_read_eq_readResult hr, rfl, rfl, fun k cause p hans => ?_, fun e he => ?_⟩
  · exact congrArg some (readResult_eq_err_iff.2 ⟨k, cause, p, hans, rfl⟩)
  · exact readResult_eq_err_iff.1 (Option.some.inj he)

/-! ### `READ` as `TRANSACT`, then `COMPOSE` and `DECODE` -/

/-- Two bytes at the ports after an answer was delivered are the answer's own (R58). -/
theorem State.answer_of_returnAnswer_bytes {s : State} {a : BusAnswer} {b0 b1 : Byte}
    (h : (s.returnAnswer .bytes a).delivered = some (.ok (.bytes b0 b1))) : a = .ok b0 b1 := by
  cases a with
  | ok c0 c1 => simpa using h
  | fail k cause p => simp at h

/-- An error at the ports after an answer was delivered: the same is delivered whatever value bytes would have given. -/
theorem State.returnAnswer_congr_of_err {s : State} {a : BusAnswer} {e : TdcuError} {value : Byte → Byte → Value}
    (h : (s.returnAnswer value a).delivered = some (.err e)) (value' : Byte → Byte → Value) :
    s.returnAnswer value' a = s.returnAnswer value a := by
  cases a with
  | ok b0 b1 => simp at h
  | fail k cause p => rfl

/-- Settles O45: each of `COMPOSE` and `DECODE` overwrites what was handed out before it; an error has no bytes to decode. -/
theorem readIsTransactThenDecode : Obligations.ReadIsTransactThenDecode := by
  intro s t h
  obtain ⟨-, hr⟩ := (exec_bus_completes_iff (.inl rfl)).1 ⟨t, h⟩
  obtain rfl := Host.Outcome.next.inj ((exec_transact_of_busReady hr).symm.trans h)
  rw [exec_read_of_busReady hr]
  refine ⟨fun b0 b1 hbytes => ?_, fun e he => congrArg _ (State.returnAnswer_congr_of_err he _)⟩
  rw [State.answer_of_returnAnswer_bytes hbytes]
  exact ⟨_, _, _, returns_compose b0 b1 _, rfl, returns_decode _ _, rfl⟩

end Sys2Proof.Machine
end

section
/-! SUPPORT. Sequences of reads (43_read.md R82): each uses up its own answer and drives its own transaction.
-/

namespace Sys2Proof.Machine

/-- The bus may be used, start-up has not failed, and the script begins with `n` reads, after which `rest` follows. -/
structure ReadsNext (n : Nat) (rest : List Event) (s : State) : Prop where
  busReady : s.busReady
  notFailed : ∀ e, s.startUp ≠ .failed e
  script : s.script = List.replicate n (.invoke (.read s.handle.id)) ++ rest

/-- One read of a sequence hands out the result of the next answer and uses that answer up, in one transaction. -/
theorem ReadsNext.step_next {n : Nat} {rest : List Event} {s : State} (h : ReadsNext (n + 1) rest s) :
    ∃ t : State, step s = .next t ∧ ReadsNext n rest t ∧ t.delivered = some (readResult s.nextAnswer) ∧
      t.answers = s.answers.tail ∧ t.frames.length = s.frames.length + 1 ∧ t.handle = s.handle := by
  obtain ⟨hr, hf, hs⟩ := h
  rw [List.replicate_succ, List.cons_append] at hs
  refine ⟨_, (step_of_script hs hf).trans (exec_read_eq_readResult hr), ⟨hr, hf, rfl⟩, rfl, rfl, ?_, rfl⟩
  simp

/-- After `n` reads of a sequence `n` answers have been used up, in `n` transactions, and the rest of the reads is left. -/
theorem ReadsNext.run_next {n m : Nat} {rest : List Event} {s : State} (h : ReadsNext (n + m) rest s) :
    ∃ t : State, core.run n s = .next t ∧ ReadsNext m rest t ∧ t.answers = s.answers.drop n ∧
      t.frames.length = s.frames.length + n ∧ t.handle = s.handle := by
  induction n generalizing m with
  | zero => exact ⟨s, rfl, Nat.zero_add m ▸ h, rfl, rfl, rfl⟩
  | succ n ih =>
    have hassoc : n + 1 + m = n + (m + 1) := by omega
    obtain ⟨t, hrun, ht, hta, htf, hth⟩ := ih (hassoc ▸ h)
    obtain ⟨u, hstep, hu, -, hua, huf, huh⟩ := ht.step_next
    exact ⟨u, core_run_succ_of_next hrun hstep, hu, by rw [hua, hta, List.tail_drop], by omega, huh.trans hth⟩

/-- Settles O51: the reads before the last use up the answers before its own, and the last hands out what a single read
makes of that answer. -/
theorem nthReadDependsOnItsOwnAnswer : Obligations.NthReadDependsOnItsOwnAnswer := by
  intro s n earlier later a rest hr hf hlen hans hscript
  obtain ⟨t, hrun, ht, hta, htf, hth⟩ := ReadsNext.run_next ⟨hr, hf, hscript⟩
  obtain ⟨u, hstep, hu, hud, hua, huf, huh⟩ := ht.step_next
  have hown : t.answers = a :: later := by rw [hta, hans, ← hlen, List.drop_left]
  rw [State.nextAnswer_of_cons hown] at hud
  have hsingle := exec_read_eq_readResult (s := { s with answers := [a], frames := [], delivered := none }) hr
  refine ⟨u, _, core_run_succ_of_next hrun hstep, hsingle, hud, ?_, by omega, huh.trans hth, ?_⟩
  · rw [hua, hown, List.tail_cons]
  · exact hu.script

end Sys2Proof.Machine
end

section
/-! SUPPORT. The display split (44_display_split.md): which values give a pair, and what the pair loses.
-/

namespace Sys2Proof.Machine

/-! ### What `SPLIT` returns -/

theorem returns_split (T : Wide) (s : State) : returns (.split T) s (.display (wholeOf T) (remOf T)) := rfl

theorem remOf_le (T : Wide) : (remOf T).toNat ≤ 999 := by
  obtain ⟨-, -, hle⟩ := display_inFormat T
  exact hle

/-- `SPLIT` in integers, without division: the whole part never has the other sign, and the remainder is what it leaves
of the magnitude (R86, R89). -/
theorem returns_split_iff {T whole : Wide} {rem : Rem10} {s : State} :
    returns (.split T) s (.display whole rem) ↔ rem.toNat ≤ 999 ∧
      ((0 ≤ T.toInt ∧ 0 ≤ whole.toInt ∧ T.toInt = 1000 * whole.toInt + rem.toNat) ∨
        (T.toInt ≤ 0 ∧ whole.toInt ≤ 0 ∧ T.toInt = 1000 * whole.toInt - rem.toNat)) := by
  have hle := remOf_le T
  have hwhole := wholeOf_toInt T
  have hrem := remOf_toNat T
  have hquot := tdiv_cases T.toInt 1000
  have hsum := Int.tmod_add_mul_tdiv T.toInt 1000
  constructor
  · intro h
    cases returns_unique h (returns_split T s)
    omega
  · intro h
    have hw : whole = wholeOf T := BitVec.eq_of_toInt_eq (by omega)
    have hr : rem = remOf T := BitVec.eq_of_toNat_eq (by omega)
    rw [hw, hr]
    exact returns_split T s

/-- The pairs with no whole degree: the remainder is all of the magnitude, and nothing tells the sign (R87). -/
theorem returns_split_zero_iff {T : Wide} {rem : Rem10} {s : State} :
    returns (.split T) s (.display 0#32 rem) ↔ rem.toNat ≤ 999 ∧ rem.toNat = T.toInt.natAbs := by
  rw [returns_split_iff, BitVec.toInt_zero]
  omega

theorem returns_split_zero_neg {T : Wide} {rem : Rem10} {s : State} (h : returns (.split T) s (.display 0#32 rem)) :
    returns (.split (-T)) s (.display 0#32 rem) := by
  obtain ⟨hle, hmag⟩ := returns_split_zero_iff.1 h
  have hneg := wide_neg_toInt (a := T) (by omega)
  exact returns_split_zero_iff.2 ⟨hle, by omega⟩

section

variable {T whole : Wide} {rem : Rem10} {s : State} (h : returns (.split T) s (.display whole rem))
include h

theorem whole_eq_zero_iff_of_returns_split : whole = 0#32 ↔ T.toInt.natAbs ≤ 999 := by
  have hpair := returns_split_iff.1 h
  rw [← BitVec.toInt_inj, BitVec.toInt_zero]
  omega

theorem natAbs_of_returns_split : T.toInt.natAbs = 1000 * whole.toInt.natAbs + rem.toNat := by
  have hpair := returns_split_iff.1 h
  omega

/-- A pair with a whole degree, or with nothing at all, comes from one value (R89). -/
theorem eq_of_returns_split {U : Wide} (hU : returns (.split U) s (.display whole rem))
    (hsign : whole ≠ 0#32 ∨ rem = 0#10) : U = T := by
  have hpairT := returns_split_iff.1 h
  have hpairU := returns_split_iff.1 hU
  rw [Ne, ← BitVec.toInt_inj, BitVec.toInt_zero, ← BitVec.toNat_inj, BitVec.toNat_ofNat] at hsign
  apply BitVec.eq_of_toInt_eq
  omega

/-- A pair that comes from one value has a whole degree, or nothing at all: else it is the pair of `-T` too (R87, R89). -/
theorem sign_of_returns_split_unique (huniq : ∀ U : Wide, returns (.split U) s (.display whole rem) → U = T) :
    whole ≠ 0#32 ∨ rem = 0#10 := by
  refine or_iff_not_imp_left.2 fun hwhole => ?_
  obtain rfl := not_not.1 hwhole
  obtain ⟨hle, hmag⟩ := returns_split_zero_iff.1 h
  have hself := congrArg BitVec.toInt (huniq _ (returns_split_zero_neg h))
  rw [wide_neg_toInt (by omega)] at hself
  apply BitVec.eq_of_toNat_eq
  rw [BitVec.toNat_ofNat]
  omega

end

/-! ### The remainders of temperatures -/

/-- Sixteen counts are one degree, so the remainder depends on the count modulo 16 alone (R89). -/
theorem rem_of_returns_split_of_count {T whole : Wide} {rem : Rem10} {s : State} {n : Int}
    (hT : T.toInt = (n * 625).tdiv 10) (h : returns (.split T) s (.display whole rem)) :
    rem.toNat = n.natAbs % 16 * 125 / 2 := by
  have hmag := natAbs_of_returns_split h
  obtain ⟨hle, -⟩ := returns_split_iff.1 h
  rw [scale_tdiv_eq_floor] at hT
  have hcount : T.toInt.natAbs = n.natAbs * 125 / 2 := by omega
  have hdegrees : whole.toInt.natAbs = n.natAbs / 16 := by omega
  omega

/-- The halves of the first sixteen multiples of 125 (R89). -/
theorem half_of_125_mem : ∀ k < 16, k * 125 / 2 ∈
    [0, 62, 125, 187, 250, 312, 375, 437, 500, 562, 625, 687, 750, 812, 875, 937] := by decide

/-! ### The obligations -/

/-- Settles O15: the remainder is the magnitude of the truncating remainder, which is what the quotient leaves of `T`. -/
theorem splitTruncatesAndDropsTheSign : Obligations.SplitTruncatesAndDropsTheSign := by
  intro T s
  refine ⟨_, _, returns_split T s, wholeOf_toInt T, ?_, remOf_le T⟩
  rw [remOf_toNat, Int.tmod_def, Int.natCast_natAbs]

/-- Settles O43: a pair with whole part 0 tells the magnitude alone, and 15 counts are the most that stay below one
degree. -/
theorem splitLosesTheSignBelowOneDegree : Obligations.SplitLosesTheSignBelowOneDegree := by
  refine ⟨fun T s lo hi => ?_, fun c T whole rem s lo hi hT h => ?_⟩
  · have hmag : (BitVec.ofNat 10 T.toInt.natAbs).toNat = T.toInt.natAbs := by
      rw [BitVec.toNat_ofNat]
      omega
    have hpair : returns (.split T) s (.display 0#32 (BitVec.ofNat 10 T.toInt.natAbs)) :=
      returns_split_zero_iff.2 ⟨by omega, hmag⟩
    exact ⟨_, hpair, returns_split_zero_neg hpair, by rw [hmag, Int.natCast_natAbs]⟩
  · have htemp := toInt_of_returns_scale lo hi hT
    rw [whole_eq_zero_iff_of_returns_split h]
    omega

/-- Settles O42: the pair determines the magnitude, and the value exactly where it shows a sign or is zero; a decoded word
has the remainder of its count modulo 16. -/
theorem splitCanBeRebuilt : Obligations.SplitCanBeRebuilt := by
  refine ⟨fun T s whole rem h => ⟨?rebuilt, ?magnitude, ?unique, fun U hU => ?sameMagnitude⟩,
    fun w s T whole rem hT h => ?decoded⟩
  case rebuilt =>
    have hpair := returns_split_iff.1 h
    omega
  case magnitude =>
    have hmag := natAbs_of_returns_split h
    rw [Int.abs_eq_natAbs, Int.abs_eq_natAbs]
    omega
  case unique =>
    exact ⟨fun hsign U hU => eq_of_returns_split h hU hsign, sign_of_returns_split_unique h⟩
  case sameMagnitude =>
    rw [Int.abs_eq_natAbs, Int.abs_eq_natAbs, natAbs_of_returns_split h, natAbs_of_returns_split hU]
  case decoded =>
    cases returns_unique hT (returns_decode w s)
    have htemp := decoded_toInt w
    have hpair := returns_split_iff.1 h
    obtain ⟨lo, hi⟩ := field_toInt_bounds (w.extractLsb' 4 12)
    have hrem := rem_of_returns_split_of_count htemp h
    rw [scale_tdiv_eq_floor] at htemp
    refine ⟨by omega, by omega, ?_⟩
    rw [hrem]
    exact half_of_125_mem _ (Nat.mod_lt _ (by decide))

end Sys2Proof.Machine
end

section
/-! SUPPORT. Programs of admissible operations on a bus that may be used (60_exceptions.md R100): every step leaves such a program.
-/

namespace Sys2Proof.Machine

/-! ### The next event of an admissible program -/

/-- The only admissible events are invocations of admissible operations. -/
theorem Event.admissible_iff {h : HandleId} {e : Event} :
    e.admissible h ↔ ∃ i, e = .invoke i ∧ Machine.admissible h i := by
  cases e <;> simp [Event.admissible]

/-- Either the program has ended, or its next event invokes an admissible operation and the program left is such a one again. -/
theorem Running.takeEvent_cases {s : State} (h : Running s) : s.takeEvent = none ∨
    ∃ i taken, s.takeEvent = some (.invoke i, taken) ∧ admissible taken.handle.id i ∧ Running taken := by
  obtain ⟨hr, hf, hscript, hafter⟩ := h
  cases hs : s.script with
  | cons e rest =>
    rw [hs, List.forall_mem_cons] at hscript
    obtain ⟨i, rfl, hi⟩ := Event.admissible_iff.1 hscript.1
    exact .inr ⟨i, _, State.takeEvent_of_cons hs, hi, hr, hf, hscript.2, hafter⟩
  | nil =>
    obtain hends | ⟨e, es, hloop, hadm⟩ := hafter
    · exact .inl (State.takeEvent_of_ends hs hends)
    · obtain ⟨he, hes⟩ := List.forall_mem_cons.1 hadm
      obtain ⟨i, rfl, hi⟩ := Event.admissible_iff.1 he
      exact .inr ⟨i, _, State.takeEvent_of_loops hs hloop, hi, hr, hf, hes, .inr ⟨_, es, hloop, hadm⟩⟩

/-! ### One step -/

/-- An operation that completes leaves the program, and everything that lets it run on, as it was: by either arm of its
outcome. -/
theorem Running.of_exec_next {i : Instr} {s t : State} (h : Running s) (hexec : exec i s = .next t) : Running t := by
  obtain ⟨hr, hf, hscript, hafter⟩ := h
  obtain ⟨hup, hhandle, hflight, hmode, hs, ha⟩ := exec_next_frame hexec
  refine ⟨?_, ?_, ?_, ?_⟩
  · rwa [State.busReady, hhandle, hflight, hmode]
  · rwa [hup]
  · rwa [hs, hhandle]
  · rwa [ha, hhandle]

/-- At the end of the program a step changes nothing; before it, the step is an admissible operation, which completes. -/
theorem Running.step_next {s : State} (h : Running s) : ∃ t : State, step s = .next t ∧ Running t := by
  obtain hnone | ⟨i, taken, htake, hi, htaken⟩ := h.takeEvent_cases
  · exact ⟨s, by simp only [step, hnone], h⟩
  · obtain ⟨t, ht⟩ := exec_of_admissible htaken.busReady hi
    exact ⟨t, (step_of_takeEvent htake h.notFailed).trans ht, htaken.of_exec_next ht⟩

/-- Settles O53: the next event is an admissible operation, which completes and leaves the program that follows it. -/
theorem admissibleStepsKeepRunning : Obligations.AdmissibleStepsKeepRunning := fun _ h => h.step_next

/-! ### Runs of finite programs -/

/-- A step of a finite admissible program takes one event off its script, and leaves an ended one as it is. -/
theorem Running.step_of_ends {s : State} (h : Running s) (ha : s.afterScript = .ends) :
    ∃ t : State, step s = .next t ∧ Running t ∧ t.script = s.script.tail ∧ t.afterScript = .ends := by
  obtain ⟨t, hstep, ht⟩ := h.step_next
  refine ⟨t, hstep, ht, ?_⟩
  cases hs : s.script with
  | nil =>
    obtain ⟨-, rfl⟩ | ⟨e, taken, htake, -⟩ := step_next_cases hstep
    · exact ⟨hs, ha⟩
    · cases htake.symm.trans (State.takeEvent_of_ends hs ha)
  | cons e rest =>
    obtain ⟨i, rfl, -⟩ := Event.admissible_iff.1 (h.script e (hs ▸ List.mem_cons_self))
    obtain ⟨-, -, -, -, hscript, hafter⟩ := exec_next_frame ((step_of_script hs h.notFailed).symm.trans hstep)
    exact ⟨hscript, hafter.trans ha⟩

/-- A finite admissible program runs for any number of steps, each taking one event off its script. -/
theorem Running.run_of_ends {s : State} (h : Running s) (ha : s.afterScript = .ends) (n : Nat) :
    ∃ t : State, core.run n s = .next t ∧ Running t ∧ t.script = s.script.drop n ∧ t.afterScript = .ends := by
  induction n with
  | zero => exact ⟨s, rfl, h, rfl, ha⟩
  | succ n ih =>
    obtain ⟨t, hrun, ht, hts, hta⟩ := ih
    obtain ⟨u, hstep, hu, hus, hua⟩ := ht.step_of_ends hta
    exact ⟨u, core_run_succ_of_next hrun hstep, hu, by rw [hus, hts, List.tail_drop], hua⟩

/-- Settles O52: a script of admissible invocations with nothing after it is a finite admissible program. -/
theorem admissibleRunsNeverStop : Obligations.AdmissibleRunsNeverStop := by
  intro s ops hr hf hops hscript ha n
  have hrunning : Running s := ⟨hr, hf, by simpa [hscript, Event.admissible] using hops, .inl ha⟩
  obtain ⟨t, hrun, -, hts, -⟩ := hrunning.run_of_ends ha n
  exact ⟨t, hrun, by rw [hts, hscript, List.map_drop]⟩

end Sys2Proof.Machine
end

section
/-! SUPPORT. Errors (60_exceptions.md R91, R94): only a failed transaction is reported, and its code is copied unseen.
-/

namespace Sys2Proof.Machine

/-- An answer delivered is an error at the ports exactly where the transaction failed, with that failure's own code. -/
theorem State.returnAnswer_delivered_eq_err_iff {value : Byte → Byte → Value} {a : BusAnswer} {s : State}
    {e : TdcuError} : (s.returnAnswer value a).delivered = some (.err e) ↔
      ∃ k cause p, a = .fail k cause p ∧ e = .busError k := by
  cases a with
  | ok b0 b1 => simp
  | fail k cause p => simp [eq_comm]

/-- Settles O48: a pure operation that completes hands out a value, and a bus operation its answer. -/
theorem onlyTheBusReportsErrors : Obligations.OnlyTheBusReportsErrors := by
  intro i s t e h he
  obtain ⟨-, v, -, rfl⟩ | ⟨hbus, -, value, -, rfl⟩ := exec_next_cases h
  · simp at he
  · exact ⟨hbus, State.returnAnswer_delivered_eq_err_iff.1 he⟩

/-- Only admissible operations complete: the converse of `exec_of_admissible`. -/
theorem admissible_of_exec_next {i : Instr} {s t : State} (h : exec i s = .next t) : admissible s.handle.id i := by
  cases i with
  | transact g a bs n =>
    obtain ⟨x, u, hx, -⟩ := finishBus_eq_next.1 h
    obtain ⟨⟨rfl, rfl, rfl⟩, ⟨rfl, -⟩, -⟩ := busTransact_eq_ok.1 hx
    exact ⟨rfl, rfl⟩
  | read g =>
    obtain ⟨x, u, hx, -⟩ := finishBus_eq_next.1 h
    obtain ⟨-, ⟨rfl, -⟩, -⟩ := busTransact_eq_ok.1 hx
    exact ⟨rfl, rfl⟩
  | scale c =>
    simp only [exec, execScale] at h
    split at h
    · next hc => exact ⟨rfl, (productFits_iff c).1 hc⟩
    · cases h
  | compose | extract | signext | decode | split => exact ⟨rfl, trivial⟩

/-- A bus operation completes only on a bus that may be used. -/
theorem busReady_of_exec_next {i : Instr} {s t : State} (hi : i.usesBus = true) (h : exec i s = .next t) :
    s.busReady := by
  obtain ⟨hpure, -⟩ | ⟨-, hr, -⟩ := exec_next_cases h
  · cases hi.symm.trans hpure
  · exact hr

/-- A bus operation whose transaction fails raises that failure's code, whichever of the two operations it is. -/
theorem exec_bus_of_fail {i : Instr} {s t : State} {k : ErrCode} {cause : BusFailure} {p : FrameProgress}
    (hi : i.usesBus = true) (hfail : s.nextAnswer = .fail k cause p) (h : exec i s = .next t) :
    t = (s.afterTransaction 0x48#7 0x00#8).raise (.busError k) := by
  obtain ⟨hpure, -⟩ | ⟨-, -, value, -, rfl⟩ := exec_next_cases h
  · cases hi.symm.trans hpure
  · rw [hfail]
    rfl

/-- What a failing transaction drives depends on how far it came, and on neither its code nor its cause. -/
theorem frameOf_fail_congr (a : BusAddress) (r : Byte) (k k' : ErrCode) (cause cause' : BusFailure)
    (p : FrameProgress) : frameOf a r (.fail k cause p) = frameOf a r (.fail k' cause' p) := by
  cases p <;> rfl

/-- Settles O49: whether an operation completes does not depend on the answer, and the two failures drive one frame. -/
theorem errorCodesAreCopiedUnseen : Obligations.ErrorCodesAreCopiedUnseen := by
  intro s t i k k' cause cause' p rest hi h
  have hready := busReady_of_exec_next hi h
  have hadm := admissible_of_exec_next h
  obtain ⟨t', h'⟩ := exec_of_admissible (s := { s with answers := .fail k' cause' p :: rest }) hready hadm
  rw [h', exec_bus_of_fail hi rfl h, exec_bus_of_fail hi rfl h']
  simp only [State.afterTransaction, State.nextAnswer, frameOf_fail_congr _ _ k k' cause cause']
  rfl

end Sys2Proof.Machine
end

section
/-! SUPPORT. Reset and hazards (70_reset_and_hazards.md R108, R109): the ended run after a fatal start-up error, and two
transactions at once.
-/

namespace Sys2Proof.Machine

/-- A program that has not ended has a next event. -/
theorem State.takeEvent_ne_none {s : State} : s.takeEvent ≠ none ↔ s.script ≠ [] ∨ s.afterScript ≠ .ends := by
  rw [Ne, State.takeEvent_eq_none, Decidable.not_and_iff_or_not]

/-- After a fatal start-up error the next event, whatever it is, is refused with that error (R108). -/
theorem step_of_failed {s : State} {e : TdcuError} (hf : s.startUp = .failed e) (hmore : s.takeEvent ≠ none) :
    step s = .refused (.runEnded e) := by
  obtain ⟨taken, htake⟩ := Option.ne_none_iff_exists'.1 hmore
  simp only [step, htake, hf]

/-- The one step that completes after a fatal start-up error is the idle one of a program that has ended. -/
theorem eq_of_step_next_of_failed {s t : State} {e : TdcuError} (hf : s.startUp = .failed e) (h : step s = .next t) :
    t = s := by
  obtain ⟨-, heq⟩ | ⟨_, _, -, hnot, -⟩ := step_next_cases h
  · exact heq
  · exact absurd hf (hnot e)

/-- Where a step can only stay in a state, a run can only stay in it too. -/
theorem eq_of_core_run_of_step_stays {s t : State} (hstay : ∀ u, step s = .next u → u = s) {n : Nat}
    (hrun : core.run n s = .next t) : t = s := by
  induction n with
  | zero => exact (Host.Outcome.next.inj hrun).symm
  | succ n ih =>
    obtain ⟨u, hstep, hrest⟩ := core_run_succ_eq_next.1 hrun
    rw [hstay u hstep] at hrest
    exact ih hrest

/-- Settles O27: the next event is refused, and the only step that can complete stays in the state. -/
theorem fatalStartUpErrorEndsTheRun : Obligations.FatalStartUpErrorEndsTheRun := fun _ _ hf =>
  ⟨fun hmore => step_of_failed hf (State.takeEvent_ne_none.2 hmore),
    fun _ _ => eq_of_core_run_of_step_stays fun _ => eq_of_step_next_of_failed hf⟩

/-- A second transaction at once is refused, whatever else holds of the handle (R109). -/
theorem onOtherBegins_of_inFlight {s : State} (h : s.inFlight = true) :
    onOtherBegins s = .refused .overlappingTransaction := if_pos h

/-- A transaction begun with none in flight is in flight afterwards, and nothing else changes. -/
theorem onOtherBegins_of_not_inFlight {s : State} (h : s.inFlight = false) :
    onOtherBegins s = .next { s with inFlight := true } := if_neg (by simp [h])

/-- Settles O23: the step is the event that begins another transaction, and taking it off leaves `inFlight` as it was. -/
theorem secondTransactionInFlightIsRefused : Obligations.SecondTransactionInFlightIsRefused := by
  intro s rest hs hf
  have hstep : step s = onOtherBegins { s with script := rest } := step_of_script hs hf
  exact ⟨fun h => hstep.trans (onOtherBegins_of_inFlight h), fun h => hstep.trans (onOtherBegins_of_not_inFlight h)⟩

end Sys2Proof.Machine
end

section
/-! SUPPORT. The decoder and the encoder (30_encoding.md R50): each row's bytes and operand go over into each other, and
what the decoder does with each shape of bytes is said once.
-/

namespace Sys2Proof

/-! ### Operands as bytes -/

theorem word16Of_extractLsb' (w : Word16) : word16Of (w.extractLsb' 8 8) (w.extractLsb' 0 8) = w :=
  BitVec.extractLsb'_append_extractLsb' (w := 8) (len := 8)

theorem bytesOf16_word16Of (b0 b1 : Byte) : bytesOf16 (word16Of b0 b1) = [b0, b1] := by
  rw [bytesOf16, word16Of, BitVec.extractLsb'_append_eq_left, BitVec.extractLsb'_append_eq_right]

theorem wideOf_extractLsb' (v : Wide) :
    wideOf (v.extractLsb' 24 8) (v.extractLsb' 16 8) (v.extractLsb' 8 8) (v.extractLsb' 0 8) = v := by
  have join {start₁ len₁ start₂ len₂ : Nat} (h : start₂ = start₁ + len₁) :
      v.extractLsb' start₂ len₂ ++ v.extractLsb' start₁ len₁ = v.extractLsb' start₁ (len₂ + len₁) :=
    BitVec.extractLsb'_append_extractLsb'_eq_extractLsb' h
  rw [wideOf, join (by decide), join (by decide), join (by decide)]
  exact BitVec.extractLsb'_eq_self

theorem bytesOf32_wideOf (b0 b1 b2 b3 : Byte) : bytesOf32 (wideOf b0 b1 b2 b3) = [b0, b1, b2, b3] := by
  have h0 : (wideOf b0 b1 b2 b3).extractLsb' 24 8 = b0 := by
    rw [wideOf, BitVec.extractLsb'_append_eq_of_le (by decide), BitVec.extractLsb'_append_eq_of_le (by decide)]
    exact BitVec.extractLsb'_append_eq_left
  have h1 : (wideOf b0 b1 b2 b3).extractLsb' 16 8 = b1 := by
    rw [wideOf, BitVec.extractLsb'_append_eq_of_le (by decide), BitVec.extractLsb'_append_eq_of_le (by decide)]
    exact BitVec.extractLsb'_append_eq_right
  have h2 : (wideOf b0 b1 b2 b3).extractLsb' 8 8 = b2 := by
    rw [wideOf, BitVec.extractLsb'_append_eq_of_le (by decide)]
    exact BitVec.extractLsb'_append_eq_right
  have h3 : (wideOf b0 b1 b2 b3).extractLsb' 0 8 = b3 := BitVec.extractLsb'_append_eq_right
  rw [bytesOf32, h0, h1, h2, h3]

/-- The first byte of a frame is the address exactly where its top bit is 0 and its low seven bits are the address. -/
theorem eq_addressByte_iff {a : Byte} :
    a = Config.devAddr.setWidth 8 ↔ a.getLsbD 7 = false ∧ a.extractLsb' 0 7 = 0x48#7 := by
  constructor
  · rintro rfl
    decide
  · rintro ⟨htop, hlow⟩
    show a = 0x48#8
    have hmsb : a.msb = false := a.msb_eq_getLsbD_last.trans htop
    have hlt := BitVec.msb_eq_false_iff_two_mul_lt.1 hmsb
    have hnat := congrArg BitVec.toNat hlow
    apply BitVec.eq_of_toNat_eq
    simp only [BitVec.extractLsb'_toNat, Nat.shiftRight_zero, BitVec.reduceToNat] at hnat ⊢
    omega

/-! ### What the decoder does with each shape of bytes -/

theorem decode2_invocation_cases {k : Byte → Byte → Instr} {bytes : List Byte} {i : Instr}
    {answer : Option (Byte × Byte)} (h : decode2 k bytes = .invocation i answer) :
    ∃ b0 b1, bytes = [b0, b1] ∧ i = k b0 b1 ∧ answer = none := by
  unfold decode2 at h
  split at h
  · cases h
    exact ⟨_, _, rfl, rfl, rfl⟩
  · cases h

theorem decode4_invocation_cases {k : Wide → Instr} {bytes : List Byte} {i : Instr} {answer : Option (Byte × Byte)}
    (h : decode4 k bytes = .invocation i answer) : ∃ v, bytes = bytesOf32 v ∧ i = k v ∧ answer = none := by
  unfold decode4 at h
  split at h
  · cases h
    exact ⟨_, (bytesOf32_wideOf _ _ _ _).symm, rfl, rfl⟩
  · cases h

/-- Four bytes are read as a frame exactly where the top bit is 0 and the fixed bits are the address and the register
byte (R50); else they are rejected, and the padding bit is named first. -/
theorem decodeFrame_cases (j : Instr) (a r b0 b1 : Byte) :
    ((a.getLsbD 7 = false ∧ a.extractLsb' 0 7 = 0x48#7 ∧ r = 0x00#8) ∧
      decodeFrame j [a, r, b0, b1] = .invocation j (some (b0, b1))) ∨
    (¬(a.getLsbD 7 = false ∧ a.extractLsb' 0 7 = 0x48#7 ∧ r = 0x00#8) ∧
      ∃ x, decodeFrame j [a, r, b0, b1] = .rejected x ∧ (x = .addressTooWide ↔ a.getLsbD 7 = true)) := by
  have hmsb : a.msb = a.getLsbD 7 := a.msb_eq_getLsbD_last
  have hlow : a.setWidth 7 = a.extractLsb' 0 7 := BitVec.setWidth_eq_extractLsb' (by decide)
  simp only [decodeFrame, hmsb, hlow]
  split_ifs with htop haddr hreg
  · exact .inr ⟨fun ⟨hclear, _⟩ => ne_true_of_eq_false hclear htop, _, rfl, iff_of_true rfl htop⟩
  · exact .inr ⟨fun ⟨_, h, _⟩ => haddr h, _, rfl, iff_of_false nofun htop⟩
  · exact .inr ⟨fun ⟨_, _, h⟩ => hreg h, _, rfl, iff_of_false nofun htop⟩
  · exact .inl ⟨⟨Bool.eq_false_of_not_eq_true htop, not_not.1 haddr, not_not.1 hreg⟩, rfl⟩

theorem decodeFrame_frameBytes (j : Instr) (x : Byte × Byte) :
    decodeFrame j (frameBytes Config.devAddr Config.regTemp x) = .invocation j (some x) := rfl

theorem decodeFrame_invocation_cases {j : Instr} {bytes : List Byte} {i : Instr} {answer : Option (Byte × Byte)}
    (h : decodeFrame j bytes = .invocation i answer) :
    ∃ x, bytes = frameBytes Config.devAddr Config.regTemp x ∧ i = j ∧ answer = some x := by
  match bytes with
  | [a, r, b0, b1] =>
    obtain ⟨⟨htop, hlow, rfl⟩, hframe⟩ | ⟨-, x, hrejected, -⟩ := decodeFrame_cases j a r b0 b1
    · obtain rfl := eq_addressByte_iff.2 ⟨htop, hlow⟩
      cases hframe.symm.trans h
      exact ⟨(b0, b1), rfl, rfl, rfl⟩
    · cases hrejected.symm.trans h
  | [] | [_] | [_, _] | [_, _, _] | _ :: _ :: _ :: _ :: _ :: _ => cases h

theorem decode2_of_length_ne (k : Byte → Byte → Instr) {bytes : List Byte} (h : bytes.length ≠ 2) :
    decode2 k bytes = .rejected (.wrongLength bytes.length 2) := by
  unfold decode2
  split
  · exact absurd rfl h
  · rfl

theorem decode4_of_length_ne (k : Wide → Instr) {bytes : List Byte} (h : bytes.length ≠ 4) :
    decode4 k bytes = .rejected (.wrongLength bytes.length 4) := by
  unfold decode4
  split
  · exact absurd rfl h
  · rfl

theorem decodeFrame_of_length_ne (j : Instr) {bytes : List Byte} (h : bytes.length ≠ 4) :
    decodeFrame j bytes = .rejected (.wrongLength bytes.length 4) := by
  unfold decodeFrame
  split
  · exact absurd rfl h
  · rfl

/-! ### The entry points by the shape of their operand -/

/-- The entry points of a frame: `TRANSACT` and `READ` differ only in the operation a frame is read as. -/
theorem decode_of_frameEntry {e : Entry} {h : HandleId} (he : e = .transact h ∨ e = .read h) :
    ∃ j, ∀ bytes, decode e bytes = decodeFrame j bytes := by
  obtain rfl | rfl := he <;> exact ⟨_, fun _ => rfl⟩

theorem decode_of_wordEntry {e : Entry} (he : e = .compose ∨ e = .extract ∨ e = .signext ∨ e = .decode) :
    ∃ k, ∀ bytes, decode e bytes = decode2 k bytes := by
  obtain rfl | rfl | rfl | rfl := he <;> exact ⟨_, fun _ => rfl⟩

theorem decode_of_wideEntry {e : Entry} (he : e = .scale ∨ e = .split) :
    ∃ k, ∀ bytes, decode e bytes = decode4 k bytes := by
  obtain rfl | rfl := he <;> exact ⟨_, fun _ => rfl⟩

/-- The fixed arguments are the only well-formed ones (R57). -/
theorem Instr.transact_wellFormed_iff {h : HandleId} {a : BusAddress} {bs : List Byte} {n : Nat} :
    (Instr.transact h a bs n).wellFormed = true ↔ a = 0x48#7 ∧ bs = [0x00#8] ∧ n = 2 := by
  simp [Instr.wellFormed, and_assoc]

/-! ### The obligations -/

/-- Settles O2: a frame is read back with its answer, a word and a wide operand from their own bytes. -/
theorem decodeOfEncodeGivesTheOperation : Obligations.DecodeOfEncodeGivesTheOperation := by
  intro i answer hi
  have word (k : Word16 → Instr) (w : Word16) :
      decode2 (fun b0 b1 => k (word16Of b0 b1)) (bytesOf16 w) = .invocation (k w) none :=
    congrArg (fun v => Decoded.invocation (k v) none) (word16Of_extractLsb' w)
  have wide (k : Wide → Instr) (v : Wide) : decode4 k (bytesOf32 v) = .invocation (k v) none :=
    congrArg (fun u => Decoded.invocation (k u) none) (wideOf_extractLsb' v)
  cases i with
  | transact h a bs n =>
    obtain ⟨rfl, rfl, rfl⟩ := Instr.transact_wellFormed_iff.1 hi
    exact decodeFrame_frameBytes _ answer
  | read h => exact decodeFrame_frameBytes _ answer
  | compose b0 b1 => rfl
  | extract w => exact word .extract w
  | signext sh => exact word .signext sh
  | decode w => exact word .decode w
  | scale c => exact wide .scale c
  | split T => exact wide .split T

/-- Settles O3: what each shape of bytes was read from is the encoding of the operation it was read as. -/
theorem encodeOfDecodeGivesTheBytes : Obligations.EncodeOfDecodeGivesTheBytes := by
  intro e bytes i answer h
  cases e with
  | transact g | read g =>
    obtain ⟨x, rfl, rfl, rfl⟩ := decodeFrame_invocation_cases h
    exact ⟨rfl, rfl, x, rfl, rfl⟩
  | compose =>
    obtain ⟨b0, b1, rfl, rfl, rfl⟩ := decode2_invocation_cases h
    exact ⟨rfl, rfl, (0, 0), rfl, rfl⟩
  | extract | signext | decode =>
    obtain ⟨b0, b1, rfl, rfl, rfl⟩ := decode2_invocation_cases h
    exact ⟨rfl, rfl, (0, 0), bytesOf16_word16Of b0 b1, rfl⟩
  | scale | split =>
    obtain ⟨v, rfl, rfl, rfl⟩ := decode4_invocation_cases h
    exact ⟨rfl, rfl, (0, 0), rfl, rfl⟩

/-- Settles O4: two or four bytes are always an operand, a frame only with its fixed bits, and no other length is. -/
theorem onlyFixedBitsAreRejected : Obligations.OnlyFixedBitsAreRejected := by
  refine ⟨fun e b0 b1 he => ?word, fun e b0 b1 b2 b3 he => ?wide, fun h a r b0 b1 e he => ?frame,
    fun e bytes => ⟨fun he hlen => ?twoBytes, fun he hlen => ?fourBytes⟩⟩
  case word =>
    obtain ⟨k, hk⟩ := decode_of_wordEntry he
    exact ⟨_, hk _⟩
  case wide =>
    obtain ⟨k, hk⟩ := decode_of_wideEntry he
    exact ⟨_, hk _⟩
  case frame =>
    obtain ⟨j, hj⟩ := decode_of_frameEntry he
    rw [hj]
    obtain ⟨hfixed, hframe⟩ | ⟨hnot, x, hrejected, hpadding⟩ := decodeFrame_cases j a r b0 b1
    · rw [hframe]
      exact ⟨iff_of_true ⟨j, rfl⟩ hfixed, iff_of_false nofun (not_not_intro hfixed),
        iff_of_false nofun (ne_true_of_eq_false hfixed.1)⟩
    · rw [hrejected]
      exact ⟨iff_of_false nofun hnot, iff_of_true ⟨x, rfl⟩ hnot, by simpa using hpadding⟩
  case twoBytes =>
    obtain ⟨k, hk⟩ := decode_of_wordEntry he
    exact (hk bytes).trans (decode2_of_length_ne k hlen)
  case fourBytes =>
    obtain ⟨h, hframe⟩ | hwide := he
    · obtain ⟨j, hj⟩ := decode_of_frameEntry hframe
      exact (hj bytes).trans (decodeFrame_of_length_ne j hlen)
    · obtain ⟨k, hk⟩ := decode_of_wideEntry hwide
      exact (hk bytes).trans (decode4_of_length_ne k hlen)

/-- Settles O1: each row's written-out bytes are decoded by evaluation. -/
theorem writtenOutOperandsDecode : Obligations.WrittenOutOperandsDecode :=
  ⟨rfl, rfl, rfl, rfl, rfl, rfl, rfl, rfl⟩

end Sys2Proof
end

section
/-! SUPPORT. The application's start-up and the other events around the unit (10_state.md R15, 70_reset_and_hazards.md R107,
R108), and the invariant that every step keeps.
-/

namespace Sys2Proof.Machine

/-! ### The two start-up services -/

theorem onIsReady_of_cold {s : State} (h : s.startUp = .cold) (answer : Bool) : onIsReady answer s =
    .next { s with startUp := if answer then .checked else .failed .deviceNotReady } := by simp only [onIsReady, h]

theorem onIsReady_of_ne_cold {s : State} (h : s.startUp ≠ .cold) (answer : Bool) :
    onIsReady answer s = .refused .startUpOutOfOrder := by
  unfold onIsReady
  split
  · next hcold => exact absurd hcold h
  all_goals rfl

theorem onConfigure_of_arguments {role : BusRole} {speedHz : Nat} (h : ¬(role = .controller ∧ speedHz = 100000))
    (accepted : Bool) (s : State) : onConfigure role speedHz accepted s = .refused .configureArguments :=
  if_pos (Decidable.not_and_iff_or_not.1 h)

theorem onConfigure_of_ne_checked {s : State} (h : s.startUp ≠ .checked) (accepted : Bool) :
    onConfigure .controller 100000 accepted s = .refused .startUpOutOfOrder := by
  unfold onConfigure
  rw [if_neg (by simp)]
  split
  · next hchecked => exact absurd hchecked h
  all_goals rfl

theorem onConfigure_of_accepted {s : State} (h : s.startUp = .checked) : onConfigure .controller 100000 true s =
    .next { s with startUp := .up, handle := ⟨s.handle.id, true⟩ } := by simp [onConfigure, h]

theorem onConfigure_of_rejected {s : State} (h : s.startUp = .checked) : onConfigure .controller 100000 false s =
    .next { s with startUp := .failed .configurationError } := by simp [onConfigure, h]

theorem onIsReady_next_cases {answer : Bool} {s t : State} (h : onIsReady answer s = .next t) : s.startUp = .cold ∧
    t = { s with startUp := if answer then .checked else .failed .deviceNotReady } := by
  by_cases hcold : s.startUp = .cold
  · exact ⟨hcold, Host.Outcome.next.inj (h.symm.trans (onIsReady_of_cold hcold answer))⟩
  · cases (onIsReady_of_ne_cold hcold answer).symm.trans h

theorem onConfigure_next_cases {role : BusRole} {speedHz : Nat} {accepted : Bool} {s t : State}
    (h : onConfigure role speedHz accepted s = .next t) : s.startUp = .checked ∧
      (role = .controller ∧ speedHz = 100000 ∧ accepted = true ∧
          t = { s with startUp := .up, handle := ⟨s.handle.id, true⟩ } ∨
        t = { s with startUp := .failed .configurationError }) := by
  by_cases hargs : role = .controller ∧ speedHz = 100000
  · obtain ⟨rfl, rfl⟩ := hargs
    by_cases hchecked : s.startUp = .checked
    · refine ⟨hchecked, ?_⟩
      cases accepted with
      | true => exact .inl ⟨rfl, rfl, rfl, Host.Outcome.next.inj (h.symm.trans (onConfigure_of_accepted hchecked))⟩
      | false => exact .inr (Host.Outcome.next.inj (h.symm.trans (onConfigure_of_rejected hchecked)))
    · cases (onConfigure_of_ne_checked hchecked accepted).symm.trans h
  · cases (onConfigure_of_arguments hargs accepted s).symm.trans h

/-! ### Everything an event can do -/

/-- From `s` to `t` start-up, handle and frames are the same, and what was handed out still stands or is gone: all that
the events that are no operation and no start-up service can do to these fields. -/
structure Undisturbed (s t : State) : Prop where
  startUp : t.startUp = s.startUp
  handle : t.handle = s.handle
  frames : t.frames = s.frames
  delivered : t.delivered = s.delivered ∨ t.delivered = none

theorem Undisturbed.delivered_of_some {s t : State} (h : Undisturbed s t) {r : Result} (hr : t.delivered = some r) :
    s.delivered = some r := by
  obtain hsame | hnone := h.delivered
  · exact hsame.symm.trans hr
  · cases hnone.symm.trans hr

theorem Undisturbed.of_takeEvent {s t : State} {e : Event} (h : s.takeEvent = some (e, t)) : Undisturbed s t := by
  obtain ⟨hup, hhandle, -, -, -, hframes, hdelivered⟩ := State.takeEvent_frame h
  exact ⟨hup, hhandle, hframes, .inl hdelivered⟩

theorem Undisturbed.of_onReadPort_next {p : Port} {s t : State} (h : onReadPort p s = .next t) : Undisturbed s t := by
  cases hp : s.port p with
  | some x =>
    obtain rfl := Host.Outcome.next.inj ((onReadPort_of_port_some hp).symm.trans h)
    exact ⟨rfl, rfl, rfl, .inl rfl⟩
  | none => cases (onReadPort_of_port_none hp).symm.trans h

theorem Undisturbed.of_onOtherBegins_next {s t : State} (h : onOtherBegins s = .next t) : Undisturbed s t := by
  cases hflight : s.inFlight with
  | true => cases (onOtherBegins_of_inFlight hflight).symm.trans h
  | false =>
    obtain rfl := Host.Outcome.next.inj ((onOtherBegins_of_not_inFlight hflight).symm.trans h)
    exact ⟨rfl, rfl, rfl, .inl rfl⟩

/-- Everything an event can do when it completes: an operation; `isReady` in its turn; `configure` in its turn, accepted
or rejected; or one of the other events, none of which touches start-up, handle or frames. -/
theorem onEvent_next_cases {e : Event} {s t : State} (h : onEvent e s = .next t) :
    (∃ i, exec i s = .next t) ∨
    (s.startUp = .cold ∧ ∃ answer : Bool,
      t = { s with startUp := if answer then .checked else .failed .deviceNotReady }) ∨
    (s.startUp = .checked ∧
      (e = .configure .controller 100000 true ∧ t = { s with startUp := .up, handle := ⟨s.handle.id, true⟩ } ∨
        t = { s with startUp := .failed .configurationError })) ∨
    Undisturbed s t := by
  cases e with
  | invoke i => exact .inl ⟨i, h⟩
  | isReady answer =>
    obtain ⟨hcold, ht⟩ := onIsReady_next_cases h
    exact .inr (.inl ⟨hcold, answer, ht⟩)
  | configure role speedHz accepted =>
    obtain ⟨hchecked, ⟨rfl, rfl, rfl, ht⟩ | ht⟩ := onConfigure_next_cases h
    · exact .inr (.inr (.inl ⟨hchecked, .inl ⟨rfl, ht⟩⟩))
    · exact .inr (.inr (.inl ⟨hchecked, .inr ht⟩))
  | readPort p => exact .inr (.inr (.inr (.of_onReadPort_next h)))
  | otherBegins => exact .inr (.inr (.inr (.of_onOtherBegins_next h)))
  | rest =>
    obtain rfl := Host.Outcome.next.inj h
    exact .inr (.inr (.inr ⟨rfl, rfl, rfl, .inr rfl⟩))
  | otherEnds | sensorIn =>
    obtain rfl := Host.Outcome.next.inj h
    exact .inr (.inr (.inr ⟨rfl, rfl, rfl, .inl rfl⟩))

/-! ### What keeps the invariant -/

theorem Inv.of_undisturbed {s t : State} (hs : Inv s) (h : Undisturbed s t) : Inv t where
  readyIffUp := by rw [h.handle, h.startUp, hs.readyIffUp]
  busReleased := by rw [h.frames]; exact hs.busReleased
  valueInFormat v hv := hs.valueInFormat v (h.delivered_of_some hv)
  errorIsBusError e he := hs.errorIsBusError e (h.delivered_of_some he)
  startUpError := by rw [h.startUp]; exact hs.startUpError

theorem Inv.returnOk {s : State} (hs : Inv s) {v : Value} (hv : v.inFormat) : Inv (s.returnOk v) where
  readyIffUp := hs.readyIffUp
  busReleased := hs.busReleased
  valueInFormat u hu := by
    obtain rfl : v = u := by simpa using hu
    exact hv
  errorIsBusError e he := by simp at he
  startUpError := hs.startUpError

theorem Inv.raise_busError {s : State} (hs : Inv s) (k : ErrCode) : Inv (s.raise (.busError k)) where
  readyIffUp := hs.readyIffUp
  busReleased := hs.busReleased
  valueInFormat v hv := by simp at hv
  errorIsBusError e he := ⟨k, by simpa [eq_comm] using he⟩
  startUpError := hs.startUpError

theorem Inv.afterTransaction {s : State} (hs : Inv s) (a : BusAddress) (r : Byte) : Inv (s.afterTransaction a r) where
  readyIffUp := hs.readyIffUp
  busReleased := List.forall_mem_append.2 ⟨hs.busReleased, List.forall_mem_singleton.2 (released_frameOf a r _)⟩
  valueInFormat := hs.valueInFormat
  errorIsBusError := hs.errorIsBusError
  startUpError := hs.startUpError

theorem Inv.returnAnswer {s : State} (hs : Inv s) {value : Byte → Byte → Value}
    (hvalue : ∀ b0 b1, (value b0 b1).inFormat) (a : BusAnswer) : Inv (s.returnAnswer value a) := by
  cases a with
  | ok b0 b1 => exact hs.returnOk (hvalue b0 b1)
  | fail k cause p => exact hs.raise_busError k

theorem Inv.of_exec_next {i : Instr} {s t : State} (hs : Inv s) (h : exec i s = .next t) : Inv t := by
  obtain ⟨-, v, hv, rfl⟩ | ⟨-, -, value, hvalue, rfl⟩ := exec_next_cases h
  · exact hs.returnOk hv
  · exact (hs.afterTransaction _ _).returnAnswer hvalue _

/-- Before start-up has succeeded the handle is not ready (R23). -/
theorem Inv.not_ready {s : State} (hs : Inv s) (h : s.startUp ≠ .up) : s.handle.ready ≠ true :=
  fun hr => h (hs.readyIffUp.1 hr)

/-- Start-up goes on, or fails with an error of its own, and has not succeeded yet. -/
theorem Inv.with_startUp {s : State} (hs : Inv s) (h : s.startUp ≠ .up) {u : StartUp} (hu : u ≠ .up)
    (herr : ∀ e, u = .failed e → e = .deviceNotReady ∨ e = .configurationError) : Inv { s with startUp := u } where
  readyIffUp := iff_of_false (hs.not_ready h) hu
  busReleased := hs.busReleased
  valueInFormat := hs.valueInFormat
  errorIsBusError := hs.errorIsBusError
  startUpError := herr

theorem Inv.startUp_succeeds {s : State} (hs : Inv s) (id : HandleId) :
    Inv { s with startUp := .up, handle := ⟨id, true⟩ } where
  readyIffUp := iff_of_true rfl rfl
  busReleased := hs.busReleased
  valueInFormat := hs.valueInFormat
  errorIsBusError := hs.errorIsBusError
  startUpError e he := by cases he

theorem Inv.of_onEvent_next {e : Event} {s t : State} (hs : Inv s) (h : onEvent e s = .next t) : Inv t := by
  obtain ⟨i, hexec⟩ | ⟨hcold, answer, rfl⟩ | ⟨hchecked, ⟨-, rfl⟩ | rfl⟩ | hquiet := onEvent_next_cases h
  · exact hs.of_exec_next hexec
  · cases answer with
    | true => exact hs.with_startUp (by simp [hcold]) (by simp) (by simp)
    | false => exact hs.with_startUp (by simp [hcold]) (by simp) (by simp)
  · exact hs.startUp_succeeds _
  · exact hs.with_startUp (by simp [hchecked]) (by simp) (by simp)
  · exact hs.of_undisturbed hquiet

/-! ### The obligations -/

/-- Settles O7: taking an event off the program keeps the invariant, and so does each event. -/
theorem everyStepKeepsTheInvariant : Obligations.EveryStepKeepsTheInvariant := by
  intro s t hs h
  obtain ⟨-, rfl⟩ | ⟨e, taken, htake, -, hevent⟩ := step_next_cases h
  · exact hs
  · exact (hs.of_undisturbed (.of_takeEvent htake)).of_onEvent_next hevent

/-- Settles O6: nothing has been driven or delivered, and the handle is not ready before start-up. -/
theorem resetMeetsTheInvariant : Obligations.ResetMeetsTheInvariant where
  readyIffUp := iff_of_false Bool.false_ne_true nofun
  busReleased _ hf := nomatch hf
  valueInFormat _ hv := nomatch hv
  errorIsBusError _ he := nomatch he
  startUpError _ he := nomatch he

/-- Settles O5: each field as reset sets it; without an outcome no port shows anything. -/
theorem resetHoldsNothing : Obligations.ResetHoldsNothing :=
  ⟨rfl, rfl, rfl, State.port_of_delivered_none rfl⟩

/-- Settles O26: of all that an event can do, an accepted `configure` alone touches the handle, and it sets readiness. -/
theorem onlyStartUpMakesTheHandleReady : Obligations.OnlyStartUpMakesTheHandleReady := by
  intro s t h
  have unchanged (hhandle : t.handle = s.handle) {P : Prop} : t.handle.id = s.handle.id ∧
      (s.handle.ready = true → t.handle.ready = true) ∧ (s.handle.ready = false → t.handle.ready = true → P) := by
    rw [hhandle]
    exact ⟨rfl, id, fun hf ht => nomatch hf.symm.trans ht⟩
  obtain ⟨-, rfl⟩ | ⟨e, taken, htake, -, hevent⟩ := step_next_cases h
  · exact unchanged rfl
  · have htaken := Undisturbed.of_takeEvent htake
    obtain ⟨i, hexec⟩ | ⟨-, answer, rfl⟩ | ⟨hchecked, ⟨rfl, rfl⟩ | rfl⟩ | hquiet := onEvent_next_cases hevent
    · obtain ⟨-, hhandle, -⟩ := exec_next_frame hexec
      exact unchanged (hhandle.trans htaken.handle)
    · exact unchanged htaken.handle
    · exact ⟨by rw [htaken.handle], fun _ => rfl,
        fun _ _ => ⟨htaken.startUp.symm.trans hchecked, taken, htake⟩⟩
    · exact unchanged htaken.handle
    · exact unchanged (hquiet.handle.trans htaken.handle)

/-- Settles O24: the step is the start-up service, and taking it off leaves start-up as it was. -/
theorem startUpGoesThreeWays : Obligations.StartUpGoesThreeWays := by
  intro s rest
  have service {e : Event} {u : StartUp} (h : s.startUp = u) (hu : ∀ x, u ≠ .failed x) (hs : s.script = e :: rest) :
      step s = onEvent e { s with script := rest } := step_of_script hs (h ▸ hu)
  refine ⟨fun h hs => ?_, fun h hs => ?_, fun h hs => ?_, fun h hs => ?_⟩
  · exact (service h nofun hs).trans (onIsReady_of_cold (s := { s with script := rest }) h false)
  · exact (service h nofun hs).trans (onIsReady_of_cold (s := { s with script := rest }) h true)
  · exact (service h nofun hs).trans (onConfigure_of_rejected (s := { s with script := rest }) h)
  · exact (service h nofun hs).trans (onConfigure_of_accepted (s := { s with script := rest }) h)

/-- Settles O25: the step is the start-up service, which refuses its order or its arguments. -/
theorem startUpOutOfOrderIsRefused : Obligations.StartUpOutOfOrderIsRefused := by
  intro s rest hf
  refine ⟨fun a h hs => ?_, fun a h hs => ?_, fun role speedHz a h hs => ?_⟩
  · exact (step_of_script hs hf).trans (onIsReady_of_ne_cold (s := { s with script := rest }) h a)
  · exact (step_of_script hs hf).trans (onConfigure_of_ne_checked (s := { s with script := rest }) h a)
  · exact (step_of_script hs hf).trans (onConfigure_of_arguments h a _)

/-- Settles O31: the step is the event, whose next state names the field it changes. -/
theorem environmentEventsChangeTheirOwnField : Obligations.EnvironmentEventsChangeTheirOwnField := fun _ _ hf =>
  ⟨fun hs => ⟨_, step_of_script hs hf, rfl, State.port_of_delivered_none rfl⟩,
    fun hs => step_of_script hs hf, fun _ hs => step_of_script hs hf⟩

end Sys2Proof.Machine
end

section
/-! SUPPORT. A step and the program it takes its event from (10_state.md R11, 70_reset_and_hazards.md R115), and a table word
placed as that event.
-/

namespace Sys2Proof.Machine

/-! ### A step and its program -/

theorem step_of_takeEvent_none {s : State} (h : s.takeEvent = none) : step s = .next s := by simp only [step, h]

/-- A step depends on the event it takes, the state that leaves, and how start-up stands. -/
theorem step_congr {s t taken : State} {e : Event} (hs : s.takeEvent = some (e, taken))
    (ht : t.takeEvent = some (e, taken)) (hup : s.startUp = t.startUp) : step s = step t := by
  simp only [step, hs, ht, hup]

/-- Settles O8: a script's first event is the one taken, and a program that goes on takes the same event as the script
that lists it. -/
theorem stepRunsTheInvokedOperation : Obligations.StepRunsTheInvokedOperation := by
  refine ⟨fun s i rest hs hf => step_of_script hs hf, fun s hs ha => ?ends, fun s e es hs ha => ?loops,
    fun s n hs ha => ?drawn⟩
  case ends => exact step_of_takeEvent_none (State.takeEvent_of_ends hs ha)
  case loops => exact step_congr (State.takeEvent_of_loops hs ha) (State.takeEvent_of_cons rfl) rfl
  case drawn =>
    refine step_congr (State.takeEvent_of_drawn hs ha) ((State.takeEvent_of_cons rfl).trans ?_) rfl
    rw [← hs]

/-! ### A placed table word -/

theorem decodeTableWord_eq_some {nbits w : Nat} {i : Instr} :
    decodeTableWord nbits w = some i ↔ ∃ answer, decodeTable nbits w = some (.invocation i answer) := by
  unfold decodeTableWord
  split <;> simp_all

/-- The step after an operation was placed runs it, in the state whose start-up has succeeded (notes/assumptions/4.md). -/
theorem step_place_started (i : Instr) (answer : Option (Byte × Byte)) (s : State) :
    step (s.started.place i answer) = exec i { s.started.place i answer with script := s.script } :=
  step_of_script (State.place_script i answer s.started) (by simp)

/-- Settles O9: the word is placed as the operation the decoder reads, with the frame's answer before the others. -/
theorem placedTableWordIsRunNext : Obligations.PlacedTableWordIsRunNext := by
  intro s nbits w i h
  obtain ⟨answer, hdecode⟩ := decodeTableWord_eq_some.1 h
  refine ⟨answer, hdecode, ?_⟩
  have hplace : s.withFetchWord nbits w = s.started.place i answer := by
    simp only [State.withFetchWord, State.placeTableWord, hdecode]
  rw [hplace, step_place_started]
  cases answer <;> rfl

end Sys2Proof.Machine
end

section
/-! SUPPORT. What the ports show after an invocation (10_state.md R18, R21).
-/

namespace Sys2Proof.Machine

/-! ### The ports of each kind of outcome -/

theorem State.statusPorts_of_ok {t : State} {v : Value} (h : t.delivered = some (.ok v)) :
    t.port .ok = some (.bit true) ∧ t.port .err = some (.bit false) ∧ t.port .errCode = none :=
  ⟨State.port_of_delivered h _, State.port_of_delivered h _, State.port_of_delivered h _⟩

theorem State.valuePorts_of_temperature {t : State} {T : Wide} (h : t.delivered = some (.ok (.temperature T))) :
    t.port .tempMdeg = some (.wide T) ∧ t.port .whole = some (.wide (wholeOf T)) ∧
      t.port .rem = some (.tenBits (remOf T)) :=
  ⟨State.port_of_delivered h _, State.port_of_delivered h _, State.port_of_delivered h _⟩

theorem State.valuePorts_of_display {t : State} {whole : Wide} {rem : Rem10}
    (h : t.delivered = some (.ok (.display whole rem))) :
    t.port .tempMdeg = none ∧ t.port .whole = some (.wide whole) ∧ t.port .rem = some (.tenBits rem) :=
  ⟨State.port_of_delivered h _, State.port_of_delivered h _, State.port_of_delivered h _⟩

/-- An outcome with neither a temperature nor a split shows nothing at the value ports. -/
theorem State.valuePorts_eq_none {t : State} {r : Result} (h : t.delivered = some r) (htemp : r.temp = none)
    (hdisplay : r.display = none) : t.port .tempMdeg = none ∧ t.port .whole = none ∧ t.port .rem = none := by
  have shows_none {p : Port} (hp : p = .tempMdeg ∨ p = .whole ∨ p = .rem) : t.port p = none :=
    (State.port_of_delivered h p).trans (Result.port_eq_none_of_valuePort hp htemp hdisplay)
  exact ⟨shows_none (by simp), shows_none (by simp), shows_none (by simp)⟩

/-! ### The ports after a bus operation -/

/-- The status ports after a bus operation are those of its answer: `bus_ok`, `bus_err`, `bus_code` (R18). -/
theorem State.statusPorts_of_returnAnswer (value : Byte → Byte → Value) (a : BusAnswer) (s : State) :
    (s.returnAnswer value a).port .ok = some (.bit (busOk a)) ∧
    (s.returnAnswer value a).port .err = some (.bit (busErr a)) ∧
    (s.returnAnswer value a).port .errCode = (busCode a).map .code := by
  cases a <;> exact ⟨rfl, rfl, rfl⟩

/-- After a `TRANSACT` the value ports show nothing, whether it got two bytes or failed. -/
theorem State.valuePorts_of_returnAnswer_bytes (a : BusAnswer) (s : State) :
    (s.returnAnswer .bytes a).port .tempMdeg = none ∧ (s.returnAnswer .bytes a).port .whole = none ∧
      (s.returnAnswer .bytes a).port .rem = none := by
  cases a with
  | ok b0 b1 => exact State.valuePorts_eq_none (State.returnAnswer_delivered _ _ _) rfl rfl
  | fail k cause p => exact State.valuePorts_eq_none (State.returnAnswer_delivered _ _ _) rfl rfl

/-! ### The obligations -/

/-- Settles O28: the status is the answer's; two bytes give a temperature with its split, a failure gives no value. -/
theorem portsAfterARead : Obligations.PortsAfterARead := by
  intro s hr
  obtain ⟨hok, herr, hcode⟩ := State.statusPorts_of_returnAnswer
    (fun b0 b1 => .temperature (decoded (composeWord b0 b1))) s.nextAnswer (s.afterTransaction 0x48#7 0x00#8)
  refine ⟨_, exec_read_of_busReady hr, hok, herr, hcode, ?_⟩
  cases s.nextAnswer with
  | ok b0 b1 =>
    have hdelivered := State.returnOk_delivered (.temperature (decoded (composeWord b0 b1)))
      (s.afterTransaction 0x48#7 0x00#8)
    obtain ⟨hone, -, hnocode⟩ := State.statusPorts_of_ok hdelivered
    refine ⟨_, _, _, ?_, wholeOf_toInt _, remOf_toNat _, hone, hnocode, State.valuePorts_of_temperature hdelivered⟩
    rw [decoded_toInt, field_composeWord_toInt]
  | fail k cause p => exact ⟨rfl, rfl, State.valuePorts_eq_none (State.raise_delivered _ _) rfl rfl⟩

/-- Settles O30: each operation's outcome is one value, or a bus answer, and its ports are those of that outcome. -/
theorem portsAfterEachOperation : Obligations.PortsAfterEachOperation := by
  refine ⟨fun i s t hi h => ?status, fun T s => ?split, fun i n s hi => ?temperature, fun i s hi => ?noValue,
    fun s hr => ?transact⟩
  case status =>
    obtain ⟨-, v, -, rfl⟩ | ⟨hbus, -⟩ := exec_next_cases h
    · exact State.statusPorts_of_ok (State.returnOk_delivered v s)
    · cases hi.symm.trans hbus
  case split =>
    exact ⟨_, _, _, returns_split T s, wholeOf_toInt T, remOf_toNat T, State.valuePorts_of_display rfl⟩
  case temperature =>
    obtain ⟨w, rfl, rfl⟩ | ⟨c, rfl, rfl, lo, hi⟩ := hi
    · exact ⟨_, _, _, _, returns_decode w s, decoded_toInt w, wholeOf_toInt _, remOf_toNat _,
        State.valuePorts_of_temperature rfl⟩
    · exact ⟨_, _, _, _, returns_scale ⟨lo, hi⟩ s, scaled_toInt lo hi, wholeOf_toInt _, remOf_toNat _,
        State.valuePorts_of_temperature rfl⟩
  case noValue =>
    obtain ⟨b0, b1, rfl⟩ | ⟨w, rfl⟩ | ⟨sh, rfl⟩ := hi
    · exact ⟨_, returns_compose b0 b1 s, State.valuePorts_eq_none rfl rfl rfl⟩
    · exact ⟨_, returns_extract w s, State.valuePorts_eq_none rfl rfl rfl⟩
    · exact ⟨_, returns_signext sh s, State.valuePorts_eq_none rfl rfl rfl⟩
  case transact =>
    obtain ⟨hok, herr, hcode⟩ := State.statusPorts_of_returnAnswer .bytes s.nextAnswer
      (s.afterTransaction 0x48#7 0x00#8)
    exact ⟨_, exec_transact_of_busReady hr, hok, herr, hcode, State.valuePorts_of_returnAnswer_bytes _ _⟩

end Sys2Proof.Machine
end

section
/-! SUPPORT. The frame a failing transaction drives (30_encoding.md R46, 43_read.md R83).
-/

namespace Sys2Proof.Machine

/-- Settles O20: `exec_bus_frames` gives the frame of the failing answer, which is written out for each progress. -/
theorem brokenFrameReleasesTheBus : Obligations.BrokenFrameReleasesTheBus := by
  intro s i k cause p hr hans hi
  obtain ⟨t, ht, hframes⟩ := exec_bus_frames hr hi
  rw [hans] at hframes
  refine ⟨t, ht, hframes.trans ?_⟩
  cases p <;> rfl

end Sys2Proof.Machine
end
